-- ==== Sys2Proof/Word.lean ====
section
/-! DEFINITION. The widths of the spec: bytes, 16-bit values, 32-bit command and port words (`00_scope.md` R7, R9). -/

namespace Sys2Proof

/-- A byte, 8 bits, unsigned (R9). -/
abbrev Byte := BitVec 8

/-- A 16-bit value: the accumulator, a raw field, a decoded humidity. -/
abbrev Half := BitVec 16

/-- A 32-bit word: a command word (R60), a value of the host register read port (R26). -/
abbrev Word := BitVec 32

end Sys2Proof
end

