-- ==== Sys2Proof/Config.lean ====
section
/-! DEFINITION. What is fixed for the machine: the named constants of `00_scope.md` R6 and R7, each one a definition that an
audited value can replace (`93_implementation_defined.md` U16), and the one free value the spec leaves to time. -/

namespace Sys2Proof

/-- `CRC_SEED`: the value the accumulator starts a checksum from (R6). -/
def Config.crcSeed : Half := 0xFFFF#16

/-- `CRC_POLY`: XORed in after a right shift when the bit shifted out was 1 (R6). -/
def Config.crcPoly : Half := 0xA001#16

/-- `WAKE_BYTE`: the single byte of the wake frame (R6, R69). -/
def Config.wakeByte : Byte := 0xFF#8

/-- `FUNC_READ`: the function code "read registers" (R6, R78). -/
def Config.funcRead : Byte := 0x03#8

/-- `T_WAKE_US`: minimum wait after the wake frame, microseconds (R6). -/
def Config.wakeMicros : Nat := 850

/-- `T_THINK_US`: minimum wait after the request frame, microseconds (R6). -/
def Config.thinkMicros : Nat := 1800

/-- `ERR_THRESHOLD`: the consecutive-error threshold (R6, R13). -/
def Config.errThreshold : Nat := 5

/-- `DEFAULT_ADDR`: the default 7-bit device address (R6). -/
def Config.defaultAddr : BitVec 7 := 0x5C#7

/-- `ERRCNT_MAX`: where the consecutive-error counter saturates (R7, R14). -/
def Config.errcntMax : Byte := 255#8

/-- `RXBUF_BYTES`: the size of the receive buffer (R7, R20). -/
def Config.rxbufBytes : Nat := 259

/-- `HUM_ONLY`: start and count of the humidity-only window (R6). -/
def Config.humOnly : Byte × Byte := (0x00#8, 2#8)

/-- `TEMP_ONLY`: start and count of the temperature-only window (R6). -/
def Config.tempOnly : Byte × Byte := (0x02#8, 2#8)

/-- `BOTH`: start and count of the window for both quantities (R6). -/
def Config.both : Byte × Byte := (0x00#8, 4#8)

/-- `READ_COUNT`, least and greatest: the repeat-read count of the sampling loop (R6, R187). -/
def Config.readCountMin : Nat := 2
def Config.readCountMax : Nat := 4

/-- `DELAY_S`, least and greatest: the inter-read delay in whole seconds (R6, R187). -/
def Config.delayMin : Nat := 2
def Config.delayMax : Nat := 5

/-- FREE VALUE, no body: the microseconds the environment lets pass beyond what a wait asks for, the length of a bus
transaction, the gap before a command is accepted. Applied to the counter `State.draws`, so each draw is a fresh one
(R116: no upper bound; log 9). -/
opaque Config.freeDelay : Nat → Nat

/-- FREE VALUES, no body: what `HUM`, `TNEG` and `TMAG` hold once `OPEN` or `READ_REGS` has cleared their valid bits: any value
(U10; R22, R23; log 27). Applied to `State.draws` likewise. -/
opaque Config.freeHum : Nat → BitVec 16
opaque Config.freeTneg : Nat → Bool
opaque Config.freeTmag : Nat → BitVec 15

end Sys2Proof
end

