-- ==== Sys2Proof/Syntax.lean ====
section
/-! DEFINITION. The commands of the block: one constructor per row of `opcode_table.json` (`30_encoding.md` R61 to R67). -/

namespace Sys2Proof

/-- A command word's meaning as syntax. Operands are the bytes `a`, `b` of the word (R60, R74); a `DECODE` keeps both offsets,
the ignored one too, because any value is legal there (R67). -/
inductive Instr where
  /-- `CRC_INIT` (R62). -/
  | crcInit
  /-- `CRC_BYTE a` (R63). -/
  | crcByte (data : Byte)
  /-- `READ_REGS a, b` (R64). -/
  | readRegs (start count : Byte)
  /-- `OPEN a` (R65): the whole byte `a`; a word is legal only with `a[7]` = 0. -/
  | openBus (addr : Byte)
  /-- `CLOSE` (R66). -/
  | close
  /-- `DECODE a, b, 1` (R67): humidity only; `toff` is ignored. -/
  | decodeHum (hoff toff : Byte)
  /-- `DECODE a, b, 2` (R67): temperature only; `hoff` is ignored. -/
  | decodeTemp (hoff toff : Byte)
  /-- `DECODE a, b, 3` (R67): humidity and temperature. -/
  | decodeBoth (hoff toff : Byte)
deriving DecidableEq, Repr

end Sys2Proof
end

