-- ==== Sys2Proof/Machine/State.lean ====
section
/-! DEFINITION. The state of one block instance (`10_state.md` R10), with the transaction in progress (R29), the environment
(bus answers, clock, trace: `41_bus_transport.md` R111, R116, R119) and the host's side (`30_encoding.md` R60,
`44_sampling_and_pseudo.md`). Plain data. -/

namespace Sys2Proof.Machine

/-- R15: the six sequencer states. -/
inductive Seq where
  | idle | waking | requesting | awaitingResponse | verifying | fatal
deriving DecidableEq, Repr

/-- The receive buffer's contents as (address, byte) pairs; its one canonical form is `Memory.wf`. -/
abbrev Memory := List Host.Cell

/-- What an address of the receive buffer that is not listed reads as (log 8). -/
def Memory.unlisted : Byte := 0#8

/-- What the block does toward the environment: a bus transaction or a wait (R119). -/
inductive BusAct where
  /-- `BusOpen(addr7)` (R112). -/
  | opening (addr : BitVec 7)
  /-- `BusSend(s)` to `DEVADDR` (R113). -/
  | send (bytes : List Byte)
  /-- `BusRecv(n)` from `DEVADDR` (R114). -/
  | recv (n : Nat)
  /-- `BusClose()` (R115). -/
  | close
  /-- `Wait_us(n)` (R116). -/
  | wait (micros : Nat)
deriving DecidableEq, Repr

/-- What the environment answered, in the shape R111 gives. -/
inductive BusAnswer where
  | ok
  | fail
  | data (bytes : List Byte)
deriving DecidableEq, Repr

/-- One event of the bus trace (R119): what was done, the answer where there is one, the clock at its start and end, and
whether it finished (a reset leaves a transaction unfinished, R240). -/
structure BusEvent where
  act : BusAct
  answer : Option BusAnswer
  began : Nat
  ended : Nat
  finished : Bool
deriving DecidableEq, Repr

/-- A transaction or wait in progress and the clock value at which it began (R29 b, R116, R120). -/
structure Pending where
  act : BusAct
  began : Nat
deriving DecidableEq, Repr

/-- One coming answer of the bus oracle (R111; log 2, log 3, log 5). To `BusOpen` and `BusSend`, `ok` is `Ok` and `fail` is
`Fail`. To `BusRecv(n)`, `ok` with at least `n` bytes is `Data` of the first `n`, `ok` with fewer is a short read and so
`Fail` (R114), and `fail` is `Fail`; a failing receive leaves in `RXBUF` and `RXLEN` whatever the answer carries (R136: unspecified). -/
inductive BusReply where
  | ok (bytes : List Byte)
  | fail (junk : List Byte) (junkLen : BitVec 9)
deriving DecidableEq, Repr

/-- The faults of the block (R200). They end a command; a step goes on. -/
inductive CmdFault where
  /-- Bus failure at open (1), request (2) or receive (3): R201. -/
  | transportError (phase : BitVec 4)
  /-- R203. -/
  | protocolExhausted
  /-- Internal to `READ_REGS`, never raised and never in `LASTERR`: R202. -/
  | checksumMismatch
  /-- R204. -/
  | cmdIllegal
  /-- R205. -/
  | badState
  /-- R206. -/
  | decodeInvalid
  /-- R207. -/
  | decodeRange
deriving DecidableEq, Repr

/-- What a reset event leaves: the elements whose reset value the spec calls unspecified (R30, U10), and the answers the bus
oracle will give from then on, because the state of the device and of the bus is unknown afterwards (R240, U17). All free
(log 7). -/
structure Leftover where
  rxbuf : List Byte
  hum : Half
  tneg : Bool
  tmag : BitVec 15
  replies : List BusReply
deriving DecidableEq, Repr

/-- The three register windows of the sampling loop (R6, R183). -/
inductive Window where
  | humOnly | tempOnly | both
deriving DecidableEq, Repr

/-- The pseudo-instructions of R77 and the decoded form of R186: host sequences, no command words of their own. -/
inductive Pseudo where
  | readHumidity
  | readTemperature
  | readAll
  | sample (kind : Window) (n d : Nat)
  | checksum (bytes : List Byte)
  | decHum (off : Byte)
  | decTemp (off : Byte)
  | decBoth (hoff toff : Byte)
  | hostWaitS (d : Nat)
  | rd (i : Nat)
  /-- The decoded form of a read operation (R186): the read, and only if it completed without fault the `DECODE` of its window
  (R167) and the reads of the decoded values; the temperature from `x[7]` if `signed`, else from `x[6]`. -/
  | decoded (kind : Window) (signed : Bool)
deriving DecidableEq, Repr

/-- What the host does next (R8, R60, R77, R240; log 13). -/
inductive HostAction where
  /-- Presents a command word on the command port and holds it until it is accepted (R60). -/
  | issue (w : Word)
  /-- Reads `x[i]` through the register read port (R26). -/
  | read (i : Nat)
  /-- Lets at least `d` seconds pass, the block resting (R183). -/
  | waitSeconds (d : Nat)
  /-- Runs a pseudo-instruction (R77). -/
  | pseudo (p : Pseudo)
  /-- Inside `SAMPLE`: one read of `kind`, with `more` reads still to follow it (R183). -/
  | sampleRead (kind : Window) (more d : Nat)
  /-- Inside `SAMPLE`: after a read, with `more` reads still to follow: stop on a fault, go on, or finish (R183, R184). -/
  | sampleCheck (kind : Window) (more d : Nat)
  /-- Inside the decoded form, after its read: stop on a fault, else decode and read the values (R186; log 28). -/
  | decodeCheck (kind : Window) (signed : Bool)
  /-- Resets the block (R240). It lands at rest, or inside the command before it: that one makes at most `after` more moves, then
  the reset is there, be it in a transaction or in a wait (log 29). What it leaves in the unspecified elements comes with it. -/
  | reset (after : Nat) (left : Leftover)
deriving DecidableEq, Repr

/-- What the host has received. -/
inductive HostResult where
  /-- `x[i]` was read as `value` (R26). -/
  | value (i : Nat) (value : Word)
  /-- A `SAMPLE` ended with this payload, the last read's (R183). -/
  | sampleResult (payload : List Byte)
  /-- A `SAMPLE` ended with this fault code (R184). -/
  | sampleFault (code : Byte)
  /-- The read of a decoded form ended with this fault code, so nothing was decoded (R186). -/
  | readFault (code : Byte)
deriving DecidableEq, Repr

/-- The state: R10's elements under their own names, then R29's, then the environment's, then the host's. -/
structure State where
  /-- `CRC` (R11). -/
  crc : Half
  /-- `ERRCNT` (R12). -/
  errcnt : Byte
  /-- `SEQ` (R15). -/
  seq : Seq
  /-- `OPEN` (R17). -/
  opened : Bool
  /-- `DEVADDR` (R18). -/
  devaddr : BitVec 7
  /-- `START` (R19). -/
  start : Byte
  /-- `COUNT` (R19). -/
  count : Byte
  /-- `RXBUF` (R20). -/
  rxbuf : Memory
  /-- `RXLEN` (R20). -/
  rxlen : BitVec 9
  /-- `PVALID` (R21). -/
  pvalid : Bool
  /-- `HUM` (R22). -/
  hum : Half
  /-- `HVALID` (R22). -/
  hvalid : Bool
  /-- `TNEG` (R23). -/
  tneg : Bool
  /-- `TMAG` (R23). -/
  tmag : BitVec 15
  /-- `TVALID` (R23). -/
  tvalid : Bool
  /-- `BUSY` (R25). -/
  busy : Bool
  /-- `LASTERR` (R25). -/
  lasterr : Byte
  /-- `ERRPHASE` (R25). -/
  errphase : BitVec 4
  /-- The transaction or wait in progress (R29 b, R120). -/
  pending : Option Pending
  /-- The environment: the answers the bus oracle will give, first one first (R111). -/
  replies : List BusReply
  /-- The environment: the clock, microseconds (R116). -/
  now : Nat
  /-- The model's own: how many times free values have been drawn (log 9, log 27). -/
  draws : Nat
  /-- The bus trace, oldest event first (R119). -/
  trace : List BusEvent
  /-- The host: what it will still do, first one first. -/
  host : List HostAction
  /-- The host: what it has received, oldest first. -/
  results : List HostResult
deriving DecidableEq, Repr

/-- Why a step stops. The spec's own faults are no stops: they end a command in a next state (R210). -/
inductive Fault where
  /-- Raised by `resumeCommand` alone: `BUSY` is 1, but `SEQ` and the transaction in progress are those of no command, so
  R141 has no row for the state. No run reaches such a state (`Inv`). Safe (log 12). -/
  | noCommandInProgress
deriving DecidableEq, Repr

/-- Why a step has no meaning. -/
inductive Refusal where
  /-- Raised by an arm of `exec` whose instruction has no meaning yet; no arm does. Safe. -/
  | notModelled (mnemonic : String)
  /-- Raised by `hostAct` alone: `SAMPLE` with a read count outside 2 to 4 or a delay outside 2 to 5, which the spec leaves to
  the calling layer (R187, U13: refuse). Safe (log 14). -/
  | sampleParametersOutOfRange
deriving DecidableEq, Repr

/-- The machine right after reset (R30), nothing placed around it. `rxbuf`, `hum`, `tneg`, `tmag` are unspecified in the
spec and 0 here (log 6); the environment's and the host's fields are empty (log 2, log 9, log 13). -/
def State.reset : State where
  crc := Config.crcSeed
  errcnt := 0#8
  seq := .idle
  opened := false
  devaddr := Config.defaultAddr
  start := 0#8
  count := 0#8
  rxbuf := []
  rxlen := 0#9
  pvalid := false
  hum := 0#16
  hvalid := false
  tneg := false
  tmag := 0#15
  tvalid := false
  busy := false
  lasterr := 0#8
  errphase := 0#4
  pending := none
  replies := []
  now := 0
  draws := 0
  trace := []
  host := []
  results := []

end Sys2Proof.Machine
end

