-- ==== Sys2Proof/Machine/Ops.lean ====
section
/-! DEFINITION. The shared operations: bytes of the receive buffer, the clock and the bus trace, ending a command with or
without a fault (`60_exceptions.md` R210, R211), the counter (`10_state.md` R13, R14, R16) and the reset event
(`70_reset_and_hazards.md` R240). -/

namespace Sys2Proof.Machine

/-- The one canonical form of the receive buffer: addresses strictly rising and below 259 (R20), no entry equal to what an
unlisted address reads as. -/
abbrev Memory.wf (m : Memory) : Prop :=
  m.Pairwise (fun c d => c.1 < d.1) ∧ ∀ c ∈ m, c.1 < Config.rxbufBytes ∧ c.2 ≠ Memory.unlisted

/-- The byte at an address. -/
def Memory.read : Memory → Nat → Byte
  | [], _ => Memory.unlisted
  | (k, v) :: m, a => if k = a then v else Memory.read m a

/-- The buffer with one byte changed, in canonical form. -/
def Memory.write : Memory → Nat → Byte → Memory
  | [], a, b => if b = Memory.unlisted then [] else [(a, b)]
  | (k, v) :: m, a, b =>
    if a < k then (if b = Memory.unlisted then (k, v) :: m else (a, b) :: (k, v) :: m)
    else if a = k then (if b = Memory.unlisted then m else (a, b) :: m)
    else (k, v) :: Memory.write m a b

/-- The bytes `bs` written at `a`, `a + 1`, ... in order. -/
def Memory.writeBytes (m : Memory) (a : Nat) : List Byte → Memory
  | [] => m
  | b :: bs => Memory.write (Memory.writeBytes m (a + 1) bs) a b

/-- The `n` bytes at `a`, `a + 1`, ... in address order. -/
def Memory.slice (m : Memory) (a : Nat) : Nat → List Byte
  | 0 => []
  | n + 1 => Memory.read m a :: Memory.slice m (a + 1) n

/-- At least `us` microseconds pass; how many more is the next free delay (R116, log 9). -/
def State.pass (us : Nat) (s : State) : State :=
  { s with now := s.now + us + Config.freeDelay s.draws, draws := s.draws + 1 }

/-- The decoder outputs cleared, by a successful `OPEN` and by the entry of a read (R22, R23, R117, R132): the valid bits are 0, and
the values they guarded are any (U10, log 27). -/
def State.clearSample (s : State) : State :=
  { s with
    hum := Config.freeHum s.draws
    hvalid := false
    tneg := Config.freeTneg s.draws
    tmag := Config.freeTmag s.draws
    tvalid := false
    draws := s.draws + 1 }

/-- `BUSY <- 1`: a command is executing (R60). -/
def State.accept (s : State) : State := { s with busy := true }

/-- The host's next actions replaced. -/
def State.withHost (actions : List HostAction) (s : State) : State := { s with host := actions }

/-- The host receives one more result. -/
def State.deliver (r : HostResult) (s : State) : State := { s with results := s.results ++ [r] }

/-- A bus transaction or a wait begins (R113, R114, R116). -/
def State.beginAct (act : BusAct) (s : State) : State := { s with pending := some { act := act, began := s.now } }

/-- The transaction or wait `p` ends now with `answer`; the trace records it (R119). -/
def State.endAct (p : Pending) (answer : Option BusAnswer) (s : State) : State :=
  { s with
    pending := none
    trace := s.trace ++ [{ act := p.act, answer := answer, began := p.began, ended := s.now, finished := true }] }

/-- The codes of R200. -/
def CmdFault.code : CmdFault → Byte
  | .transportError _ => 0x01#8
  | .protocolExhausted => 0x02#8
  | .checksumMismatch => 0x03#8
  | .cmdIllegal => 0x04#8
  | .badState => 0x05#8
  | .decodeInvalid => 0x06#8
  | .decodeRange => 0x07#8

/-- What `ERRPHASE` records: the phase of a `TransportError`, else 0 (R200, R210). -/
def CmdFault.phase : CmdFault → BitVec 4
  | .transportError phase => phase
  | .protocolExhausted => 0#4
  | .checksumMismatch => 0#4
  | .cmdIllegal => 0#4
  | .badState => 0#4
  | .decodeInvalid => 0#4
  | .decodeRange => 0#4

/-- `raise F(info)`: the fault entry of R210. There is no vector, no saved state and no return (R215). -/
def State.raise (f : CmdFault) (s : State) : State :=
  { s with lasterr := f.code, errphase := f.phase, busy := false }

/-- `complete OK` (R211). -/
def State.completeOk (s : State) : State := { s with lasterr := 0#8, errphase := 0#4, busy := false }

/-- `EXHAUSTED`, the test `ERRCNT > ERR_THRESHOLD` (R13). -/
def exhausted (errcnt : Byte) : Bool := decide (Config.errThreshold < errcnt.toNat)

/-- `sat_inc` (R14). -/
def satInc (v : Byte) : Byte := if v = Config.errcntMax then v else v + 1#8

/-- Where `SEQ` rests for a value of the counter (R16). -/
def restSeq (errcnt : Byte) : Seq := if exhausted errcnt then .fatal else .idle

/-- `SEQ` goes to rest (R134, R136). -/
def State.settle (s : State) : State := { s with seq := restSeq s.errcnt }

/-- The bytes a reset or a failed receive leaves in `RXBUF`: any (R30, R136). -/
def Memory.scramble (m : Memory) (junk : List Byte) : Memory :=
  Memory.writeBytes m 0 (junk.take Config.rxbufBytes)

/-- The trace with the transaction in progress, if there is one, left unfinished (R240, log 16). -/
def cutTrace (s : State) : List BusEvent :=
  match s.pending with
  | none => s.trace
  | some p => s.trace ++ [{ act := p.act, answer := none, began := p.began, ended := s.now, finished := false }]

/-- The reset event (R240): every element of R10 to its value of R30, the unspecified ones to whatever `left` says; a command
in progress is abandoned. The clock, the trace and the host are not reset; the oracle's coming answers are whatever `left`
says (U17). -/
def hardReset (left : Leftover) (s : State) : State :=
  { s.pass 0 with
    crc := Config.crcSeed
    errcnt := 0#8
    seq := .idle
    opened := false
    devaddr := Config.defaultAddr
    start := 0#8
    count := 0#8
    rxbuf := Memory.scramble [] left.rxbuf
    rxlen := 0#9
    pvalid := false
    hum := left.hum
    hvalid := false
    tneg := left.tneg
    tmag := left.tmag
    tvalid := false
    busy := false
    lasterr := 0#8
    errphase := 0#4
    pending := none
    replies := left.replies
    trace := cutTrace (s.pass 0) }

end Sys2Proof.Machine
end

