-- ==== Sys2Proof/Machine/Operands.lean ====
section
/-! DEFINITION. The operand forms: the 7-bit address of `OPEN` (`30_encoding.md` R65, R74), the frames of `READ_REGS` (R69 to
R73), the payload buffer (`10_state.md` R21, `20_memory.md` R42) and the two-byte fields of `DECODE` (R44, R163). -/

namespace Sys2Proof.Machine

/-- `a[6:0]` (R74). -/
def addr7 (a : Byte) : BitVec 7 := a.extractLsb' 0 7

/-- `{hi, lo}`, 16 bits (R9). -/
def concat16 (hi lo : Byte) : Half := hi ++ lo

/-- The wake frame (R69). -/
def wakeFrame : List Byte := [Config.wakeByte]

/-- The request frame (R70). -/
def requestFrame (start count : Byte) : List Byte := [Config.funcRead, start, count]

/-- `COUNT + 4`, without wrap-around (R72). -/
def responseLen (count : Byte) : Nat := count.toNat + 4

/-- The bytes the checksum covers: the first `COUNT + 2` of `RXBUF` (R71, R137). -/
def checkedBytes (m : Memory) (count : Byte) : List Byte := Memory.slice m 0 (count.toNat + 2)

/-- `rx_crc`: the last two bytes of the frame, low byte first (R45, R73). -/
def rxCrc (m : Memory) (count : Byte) : Half :=
  concat16 (Memory.read m (count.toNat + 3)) (Memory.read m (count.toNat + 2))

/-- `PL[k]`: `RXBUF[k + 2]` while `PVALID` = 1 and `k < COUNT`, else 0 (R21, R26). -/
def plByte (s : State) (k : Nat) : Byte :=
  if s.pvalid ∧ k < s.count.toNat then Memory.read s.rxbuf (k + 2) else 0#8

/-- The whole payload buffer: `COUNT` bytes while `PVALID` = 1, else empty (R21). -/
def payload (s : State) : List Byte := if s.pvalid then Memory.slice s.rxbuf 2 s.count.toNat else []

/-- Both bytes of the field at `off` lie inside the payload: `off + 1 < COUNT`, the sum without wrap-around (R163). -/
def inPayload (off count : Byte) : Bool := decide (off.toNat + 1 < count.toNat)

/-- `field16(PL, off)`: big-endian (R44, R160). -/
def field16 (s : State) (off : Byte) : Half := concat16 (plByte s off.toNat) (plByte s (off.toNat + 1))

/-- `dec_hum(raw)` (R161). -/
def decHum (raw : Half) : Half := raw

/-- The sign of `dec_temp(raw)`: bit 15 (R162). -/
def decTempNeg (raw : Half) : Bool := raw.msb

/-- The magnitude of `dec_temp(raw)`: bits 14:0 (R162). -/
def decTempMag (raw : Half) : BitVec 15 := raw.extractLsb' 0 15

end Sys2Proof.Machine
end

