-- ==== Sys2Proof/Machine/Flags.lean ====
section
/-! DEFINITION. The status view, the two's-complement temperature and the host register read port (`10_state.md` R24, R25,
R26). -/

namespace Sys2Proof.Machine

/-- The host register encoding of `SEQ` (R15). -/
def Seq.code : Seq → BitVec 3
  | .idle => 0#3
  | .waking => 1#3
  | .requesting => 2#3
  | .awaitingResponse => 3#3
  | .verifying => 4#3
  | .fatal => 5#3

/-- One bit. -/
def bit (b : Bool) : BitVec 1 := BitVec.ofBool b

/-- `STATUS` (R25), the fields from bit 31 down to bit 0. -/
def status (s : State) : Word :=
  0#5 ++ s.seq.code ++ 0#4 ++ s.errphase ++ s.lasterr ++ 0#2 ++ bit (exhausted s.errcnt) ++ bit s.tvalid ++ bit s.hvalid
    ++ bit s.pvalid ++ bit s.opened ++ bit s.busy

/-- `TEMP_S` (R24): sign and magnitude as a two's-complement number. -/
def tempS (neg : Bool) (mag : BitVec 15) : Half := if neg then 0#16 - mag.setWidth 16 else mag.setWidth 16

/-- `x[i]`, the host register read port (R26). It reads; it changes nothing. -/
def portRead (s : State) (i : Nat) : Word :=
  if i = 0x000 then status s
  else if i = 0x001 then s.crc.setWidth 32
  else if i = 0x002 then s.errcnt.setWidth 32
  else if i = 0x003 then s.devaddr.setWidth 32
  else if i = 0x004 then (concat16 s.start s.count).setWidth 32
  else if i = 0x005 then (if s.hvalid then s.hum.setWidth 32 else 0#32)
  else if i = 0x006 then (if s.tvalid then (bit s.tneg ++ s.tmag).setWidth 32 else 0#32)
  else if i = 0x007 then (if s.tvalid then (tempS s.tneg s.tmag).setWidth 32 else 0#32)
  else if 0x100 ≤ i ∧ i ≤ 0x1FE then (plByte s (i - 0x100)).setWidth 32
  else 0#32

end Sys2Proof.Machine
end

