-- ==== Sys2Proof/Machine/Decoder.lean ====
section
/-! DEFINITION. `DECODE` (`43_decoder.md` R163): one operation over the two select bits, one meaning per row of the table. -/

namespace Sys2Proof.Machine

/-- A selected field reaches past the payload (R163, R207). -/
def outOfRange (sel : Bool) (off count : Byte) : Bool := sel && !inPayload off count

/-- The decoder outputs written (R163): all from the state before, a field not selected keeps its value and loses its valid bit. -/
def writeSample (hoff toff : Byte) (selHum selTemp : Bool) (s : State) : State :=
  { s with
    hum := if selHum then decHum (field16 s hoff) else s.hum
    tneg := if selTemp then decTempNeg (field16 s toff) else s.tneg
    tmag := if selTemp then decTempMag (field16 s toff) else s.tmag
    hvalid := selHum
    tvalid := selTemp }

/-- `DECODE` with the given select bits (R163): all checks before any write. -/
def decodeSample (hoff toff : Byte) (selHum selTemp : Bool) (s : State) : State :=
  if !s.pvalid then s.accept.raise .decodeInvalid
  else if outOfRange selHum hoff s.count then s.accept.raise .decodeRange
  else if outOfRange selTemp toff s.count then s.accept.raise .decodeRange
  else (writeSample hoff toff selHum selTemp s.accept).completeOk

/-- `DECODE a, b, 1` (R163). -/
def execDecodeHum (hoff toff : Byte) (s : State) : Host.Outcome State Fault Refusal :=
  .next (decodeSample hoff toff true false s)

/-- `DECODE a, b, 2` (R163). -/
def execDecodeTemp (hoff toff : Byte) (s : State) : Host.Outcome State Fault Refusal :=
  .next (decodeSample hoff toff false true s)

/-- `DECODE a, b, 3` (R163). -/
def execDecodeBoth (hoff toff : Byte) (s : State) : Host.Outcome State Fault Refusal :=
  .next (decodeSample hoff toff true true s)

end Sys2Proof.Machine
end

