-- ==== Sys2Proof/Machine/Checksum.lean ====
section
/-! DEFINITION. The checksum accumulator: `crc_step`, `crc16`, `CRC_INIT`, `CRC_BYTE` (`40_checksum.md` R90 to R93). -/

namespace Sys2Proof.Machine

/-- One of the 8 iterations of `crc_step`: the low bit is tested before the shift (R90). -/
def crcShift (v : Half) : Half := if v.getLsbD 0 then (v >>> 1) ^^^ Config.crcPoly else v >>> 1

/-- `repeat n times`. -/
def crcShifts : Nat → Half → Half
  | 0, v => v
  | n + 1, v => crcShifts n (crcShift v)

/-- `crc_step(c, b)` (R90). -/
def crcStep (c : Half) (b : Byte) : Half := crcShifts 8 (c ^^^ b.setWidth 16)

/-- The checksum continued from `c` over a byte sequence, first byte first (R91). -/
def crcFrom (c : Half) : List Byte → Half
  | [] => c
  | b :: bs => crcFrom (crcStep c b) bs

/-- `crc16(s)` (R91): seeded, no final XOR, no reversal, no swap. -/
def crc16 (bs : List Byte) : Half := crcFrom Config.crcSeed bs

/-- `CRC_INIT` (R92). -/
def execCrcInit (s : State) : Host.Outcome State Fault Refusal :=
  .next { s.accept with crc := Config.crcSeed }.completeOk

/-- `CRC_BYTE a` (R93). -/
def execCrcByte (a : Byte) (s : State) : Host.Outcome State Fault Refusal :=
  .next { s.accept with crc := crcStep s.crc a }.completeOk

end Sys2Proof.Machine
end

