-- ==== Sys2Proof/Machine/Sequencer.lean ====
section
/-! DEFINITION. The sequencer: what one answer of the bus, the end of one wait, or one comparison does to a command in
progress (`41_bus_transport.md` R111 to R117, `42_protocol_read.md` R133 to R141), and running a command until it completes or
waits for an answer that does not come (R120). -/

namespace Sys2Proof.Machine

/-- The answer of `BusOpen` and `BusSend` is `Ok` (R112, R113). -/
def BusReply.accepted : BusReply → Bool
  | .ok _ => true
  | .fail _ _ => false

/-- The bytes `BusRecv(n)` is answered with, none when it is answered `Fail`, a short read included (R114). -/
def BusReply.received (n : Nat) : BusReply → Option (List Byte)
  | .ok bytes => if bytes.length < n then none else some (bytes.take n)
  | .fail _ _ => none

/-- The bytes a failing receive leaves in `RXBUF`: unspecified, so whatever the answer carries (R136, U10, log 5). -/
def BusReply.junk : BusReply → List Byte
  | .ok bytes => bytes
  | .fail junk _ => junk

/-- What a failing receive leaves in `RXLEN`: unspecified (R136, U10, log 5). -/
def BusReply.junkLen : BusReply → BitVec 9
  | .ok bytes => BitVec.ofNat 9 bytes.length
  | .fail _ len => len

/-- The answer in the shape R111 gives for the call. -/
def answerOf : BusAct → BusReply → BusAnswer
  | .opening _, r => if r.accepted then .ok else .fail
  | .send _, r => if r.accepted then .ok else .fail
  | .recv n, r =>
    match r.received n with
    | some bytes => .data bytes
    | none => .fail
  | .close, _ => .ok
  | .wait _, _ => .ok

/-- Step 1 of an attempt: the wake write begins (R133). -/
def startAttempt (s : State) : State := { s with seq := .waking }.beginAct (.send wakeFrame)

/-- Step 2: the request write begins (R134). -/
def startRequest (s : State) : State :=
  { s with seq := .requesting }.beginAct (.send (requestFrame s.start s.count))

/-- Step 3: the think time begins (R135). -/
def startThink (s : State) : State := { s with seq := .awaitingResponse }.beginAct (.wait Config.thinkMicros)

/-- Step 4: the receive begins (R136). -/
def startReceive (s : State) : State := s.beginAct (.recv (responseLen s.count))

/-- `OPEN` after `BusOpen` has answered (R117); the decoder outputs are cleared (R22, R23). -/
def openAnswered (addr : BitVec 7) (ok : Bool) (s : State) : State :=
  if ok then
    { s.clearSample with devaddr := addr, opened := true, errcnt := 0#8, pvalid := false, seq := .idle }.completeOk
  else s.raise (.transportError 1#4)

/-- `CLOSE` after `BusClose` has answered (R118). -/
def closeAnswered (s : State) : State := { s with opened := false }.completeOk

/-- The request write answered (R134). -/
def requestAnswered (ok : Bool) (s : State) : State :=
  if ok then startThink s else s.settle.raise (.transportError 2#4)

/-- The receive answered (R136): a whole frame goes into `RXBUF` from index 0, a failure ends the command. -/
def receiveAnswered (n : Nat) (r : BusReply) (s : State) : State :=
  match r.received n with
  | some bytes =>
    { s with rxbuf := Memory.writeBytes s.rxbuf 0 bytes, rxlen := BitVec.ofNat 9 n, seq := .verifying }
  | none =>
    { s with rxbuf := Memory.scramble s.rxbuf r.junk, rxlen := r.junkLen }.settle.raise (.transportError 3#4)

/-- Step 7: on match (R139). -/
def onMatch (s : State) : State := { s with errcnt := 0#8, pvalid := true, seq := .idle }.completeOk

/-- Step 6: on mismatch (R138): the counter is tested after the increment; a retry begins at once (R144). -/
def onMismatch (s : State) : State :=
  if exhausted (satInc s.errcnt) then
    { s with errcnt := satInc s.errcnt, seq := .fatal }.raise .protocolExhausted
  else startAttempt { s with errcnt := satInc s.errcnt }

/-- Step 5: verify (R137). Nothing but the checksum is compared (R143). -/
def verify (s : State) : State :=
  if crc16 (checkedBytes s.rxbuf s.count) = rxCrc s.rxbuf s.count then
    onMatch { s with crc := crc16 (checkedBytes s.rxbuf s.count) }
  else onMismatch { s with crc := crc16 (checkedBytes s.rxbuf s.count) }

/-- A write has been answered: the wake write, whatever the answer (R133), or the request write (R134). -/
def sendAnswered (r : BusReply) (s : State) : State :=
  match s.seq with
  | .waking => s.beginAct (.wait Config.wakeMicros)
  | .requesting => requestAnswered r.accepted s
  | .idle => s
  | .awaitingResponse => s
  | .verifying => s
  | .fatal => s

/-- A wait has ended: the wake wait (R133, R134) or the think time (R135, R136). -/
def waitElapsed (s : State) : State :=
  match s.seq with
  | .waking => startRequest s
  | .awaitingResponse => startReceive s
  | .idle => s
  | .requesting => s
  | .verifying => s
  | .fatal => s

/-- What the command does with the answer `r` to the transaction `act`. -/
def answered (act : BusAct) (r : BusReply) (s : State) : State :=
  match act with
  | .opening addr => openAnswered addr r.accepted s
  | .send _ => sendAnswered r s
  | .recv n => receiveAnswered n r s
  | .close => s
  | .wait _ => s

/-- The bus transaction `p` meets the oracle: it ends with the next answer, or stays where it is while there is none (R111,
R120). -/
def transact (p : Pending) (s : State) : State :=
  match s.replies with
  | [] => s
  | r :: rest => answered p.act r (({ s with replies := rest }.pass 0).endAct p (some (answerOf p.act r)))

/-- One move of the command in progress. -/
def tick (s : State) : State :=
  match s.pending with
  | none => if s.seq = .verifying then verify s else s
  | some p =>
    match p.act with
    | .wait us => waitElapsed ((s.pass us).endAct p none)
    | .opening _ => transact p s
    | .send _ => transact p s
    | .recv _ => transact p s
    | .close => closeAnswered ((s.pass 0).endAct p (some .ok))

/-- The moves one command can need: 6 in an attempt, `ERR_THRESHOLD + 1` attempts (R142, log 15). -/
def maxTicks : Nat := 6 * (Config.errThreshold + 1)

/-- The command in progress goes on for at most `n` moves, until it has completed. -/
def runCommand : Nat → State → State
  | 0, s => s
  | n + 1, s => if s.busy then runCommand n (tick s) else s

/-- The moves a command makes before it stops: all it needs, unless a reset lands inside it (R240, log 29). -/
def movesAllowed (s : State) : Nat :=
  match s.host with
  | .reset after _ :: _ => min after maxTicks
  | _ => maxTicks

/-- A command that has begun goes on until it has completed, the bus does not answer, or a reset is there. -/
def runOn (s : State) : State := runCommand (movesAllowed s) s

/-- `SEQ`, `OPEN` and the transaction in progress are those of a command that is executing (R117, R118, R131, R141). -/
def inProgress (s : State) : Bool :=
  match s.pending, s.seq with
  | some ⟨.opening _, _⟩, .idle => !s.opened
  | some ⟨.opening _, _⟩, .fatal => !s.opened
  | some ⟨.close, _⟩, .idle => s.opened
  | some ⟨.close, _⟩, .fatal => s.opened
  | some ⟨.send bs, _⟩, .waking => s.opened && bs == wakeFrame
  | some ⟨.wait us, _⟩, .waking => s.opened && us == Config.wakeMicros
  | some ⟨.send bs, _⟩, .requesting => s.opened && bs == requestFrame s.start s.count
  | some ⟨.wait us, _⟩, .awaitingResponse => s.opened && us == Config.thinkMicros
  | some ⟨.recv n, _⟩, .awaitingResponse => s.opened && n == responseLen s.count
  | none, .verifying => s.opened
  | _, _ => false

/-- `BUSY` = 1: the command in progress goes on; with no answer there it stays (R120). -/
def resumeCommand (s : State) : Host.Outcome State Fault Refusal :=
  if inProgress s then .next (runCommand maxTicks s) else .fault .noCommandInProgress

end Sys2Proof.Machine
end

