-- ==== Sys2Proof/Machine/ReadRegs.lean ====
section
/-! DEFINITION. `READ_REGS` (`42_protocol_read.md` R130 to R132); its steps are the sequencer's. -/

namespace Sys2Proof.Machine

/-- Entry (R132): `ERRCNT` and `CRC` are not touched; the decoder outputs are cleared (R22, R23). -/
def readEntry (a b : Byte) (s : State) : State :=
  startAttempt { s.clearSample with start := a, count := b, pvalid := false }

/-- `READ_REGS a, b` (R130, R131): `ERRCNT` is not tested. A read refused with `BadState` leaves `PVALID`
(R131, R147; log 21). -/
def execReadRegs (a b : Byte) (s : State) : Host.Outcome State Fault Refusal :=
  if s.opened then .next (runOn (readEntry a b s.accept))
  else .next (s.accept.raise .badState)

end Sys2Proof.Machine
end

