-- ==== Sys2Proof/Machine/Transport.lean ====
section
/-! DEFINITION. The bus commands `OPEN` and `CLOSE` (`41_bus_transport.md` R117, R118). -/

namespace Sys2Proof.Machine

/-- `OPEN a` (R117). A term with `a[7]` = 1 stands for no legal word and is the illegal command (R65, R68, R213; log 18). -/
def execOpen (a : Byte) (s : State) : Host.Outcome State Fault Refusal :=
  if a.msb then .next (s.accept.raise .cmdIllegal)
  else if s.opened then .next (s.accept.raise .badState)
  else .next (runOn (s.accept.beginAct (.opening (addr7 a))))

/-- `CLOSE` (R118): idempotent, no fault. `BusClose` is a transaction that always answers `Ok` (R111, R115; log 10). -/
def execClose (s : State) : Host.Outcome State Fault Refusal :=
  if s.opened then .next (runOn (s.accept.beginAct .close))
  else .next { s.accept with opened := false }.completeOk

end Sys2Proof.Machine
end

