-- ==== Sys2Proof/Machine/Dispatch.lean ====
section
/-! DEFINITION. One arm per command. -/

namespace Sys2Proof.Machine

def exec (i : Instr) (s : State) : Host.Outcome State Fault Refusal :=
  match i with
  | .crcInit => Sys2Proof.Machine.execCrcInit s
  | .crcByte data => Sys2Proof.Machine.execCrcByte data s
  | .readRegs start count => Sys2Proof.Machine.execReadRegs start count s
  | .openBus addr => Sys2Proof.Machine.execOpen addr s
  | .close => Sys2Proof.Machine.execClose s
  | .decodeHum hoff toff => Sys2Proof.Machine.execDecodeHum hoff toff s
  | .decodeTemp hoff toff => Sys2Proof.Machine.execDecodeTemp hoff toff s
  | .decodeBoth hoff toff => Sys2Proof.Machine.execDecodeBoth hoff toff s

end Sys2Proof.Machine
end

