-- ==== Sys2Proof/WellFormed.lean ====
section
/-! DEFINITION. Which terms of `Instr` a legal command word stands for. -/

namespace Sys2Proof

/-- R65: a device address has 7 bits, so `a[7]` = 0. Every other operand byte may have any value (R63, R64, R67). -/
def Instr.wf : Instr → Bool
  | .crcInit => true
  | .crcByte _ => true
  | .readRegs _ _ => true
  | .openBus addr => !addr.msb
  | .close => true
  | .decodeHum _ _ => true
  | .decodeTemp _ _ => true
  | .decodeBoth _ _ => true

end Sys2Proof
end

