-- ==== Sys2Proof/Decode.lean ====
section
/-! DEFINITION. From a 32-bit command word to a command and back (`30_encoding.md` R60 to R68). Decoding is total: a word is
one of the commands or is illegal, for a reason with a name. -/

namespace Sys2Proof

/-- Why a word is illegal: the clauses of R68, one name each. -/
inductive IllegalWord where
  /-- `op` is `0x00` or `0x07` to `0xFF`. -/
  | opcodeUnassigned
  /-- An operand byte that the command does not use is not 0. -/
  | unusedOperandNotZero
  /-- `OPEN` with `a[7]` = 1. -/
  | addressNotSevenBits
  /-- `DECODE` with `c[7:2]` not 0. -/
  | selectReserved
  /-- `DECODE` with `c` = 0: nothing selected. -/
  | selectEmpty
deriving DecidableEq, Repr

/-- The four byte fields of a command word (R60). -/
def fieldOp (w : Word) : Byte := w.extractLsb' 24 8
def fieldA (w : Word) : Byte := w.extractLsb' 16 8
def fieldB (w : Word) : Byte := w.extractLsb' 8 8
def fieldC (w : Word) : Byte := w.extractLsb' 0 8

/-- The word with the given fields: `op` in bits 31:24, `a` 23:16, `b` 15:8, `c` 7:0 (R60). -/
def packWord (op a b c : Byte) : Word := op ++ a ++ b ++ c

/-- R67, R68: the select byte of a `DECODE`. -/
def decodeSelect (a b c : Byte) : Except IllegalWord Instr :=
  if c = 1#8 then .ok (.decodeHum a b)
  else if c = 2#8 then .ok (.decodeTemp a b)
  else if c = 3#8 then .ok (.decodeBoth a b)
  else if c = 0#8 then .error .selectEmpty
  else .error .selectReserved

/-- The decoder: total on every 32-bit word (R61, R68). -/
def decode (w : Word) : Except IllegalWord Instr :=
  let op := fieldOp w
  let a := fieldA w
  let b := fieldB w
  let c := fieldC w
  if op = 0x01#8 then
    if a = 0#8 ∧ b = 0#8 ∧ c = 0#8 then .ok .crcInit else .error .unusedOperandNotZero
  else if op = 0x02#8 then
    if b = 0#8 ∧ c = 0#8 then .ok (.crcByte a) else .error .unusedOperandNotZero
  else if op = 0x03#8 then
    if c = 0#8 then .ok (.readRegs a b) else .error .unusedOperandNotZero
  else if op = 0x04#8 then
    if b = 0#8 ∧ c = 0#8 then
      if a.msb then .error .addressNotSevenBits else .ok (.openBus a)
    else .error .unusedOperandNotZero
  else if op = 0x05#8 then
    if a = 0#8 ∧ b = 0#8 ∧ c = 0#8 then .ok .close else .error .unusedOperandNotZero
  else if op = 0x06#8 then decodeSelect a b c
  else .error .opcodeUnassigned

/-- The encoder: the command word of each constructor, from R62 to R67. -/
def encode : Instr → Word
  | .crcInit => packWord 0x01#8 0#8 0#8 0#8
  | .crcByte a => packWord 0x02#8 a 0#8 0#8
  | .readRegs a b => packWord 0x03#8 a b 0#8
  | .openBus a => packWord 0x04#8 a 0#8 0#8
  | .close => packWord 0x05#8 0#8 0#8 0#8
  | .decodeHum a b => packWord 0x06#8 a b 1#8
  | .decodeTemp a b => packWord 0x06#8 a b 2#8
  | .decodeBoth a b => packWord 0x06#8 a b 3#8

/-- What the decoder reads from a table row's word: the row's bits numbered as the table numbers them, bit 0 the least
significant bit of the 32-bit command word; a row has 32 bits. -/
def decodeTableWord (nbits w : Nat) : Option Instr :=
  match decode (BitVec.ofNat 32 (w % 2 ^ nbits)) with
  | .ok i => some i
  | .error _ => none

end Sys2Proof
end

