-- ==== Sys2Proof/Machine/HostSeq.lean ====
section
/-! DEFINITION. The host's side: pseudo-instructions as sequences of host actions (`30_encoding.md` R77,
`44_sampling_and_pseudo.md` R180 to R188) and what each action does while the block rests. -/

namespace Sys2Proof.Machine

/-- The window of a kind (R6). -/
def Window.range : Window → Byte × Byte
  | .humOnly => Config.humOnly
  | .tempOnly => Config.tempOnly
  | .both => Config.both

/-- The command word of the read of a kind (R180, R181, R182). -/
def Window.word (k : Window) : Word := encode (.readRegs k.range.1 k.range.2)

/-- The command word that decodes the window of a kind (R167); the ignored offset is 0 (log 28). -/
def Window.decodeWord : Window → Word
  | .humOnly => encode (.decodeHum 0#8 0#8)
  | .tempOnly => encode (.decodeTemp 0#8 0#8)
  | .both => encode (.decodeBoth 0#8 2#8)

/-- The register the host reads the temperature from: `x[7]`, the signed view, or `x[6]` (R186). -/
def tempRegister (signed : Bool) : Nat := if signed then 7 else 6

/-- The registers that hold the decoded values of a kind (R186). -/
def Window.outputs (signed : Bool) : Window → List Nat
  | .humOnly => [5]
  | .tempOnly => [tempRegister signed]
  | .both => [5, tempRegister signed]

/-- The read count and the delay are in the ranges the calling layer checks (R187). -/
def sampleInRange (n d : Nat) : Bool :=
  decide (Config.readCountMin ≤ n ∧ n ≤ Config.readCountMax ∧ Config.delayMin ≤ d ∧ d ≤ Config.delayMax)

/-- The expansion of a pseudo-instruction (R77); none where the spec gives none (`SAMPLE` out of range, U13). -/
def Pseudo.expand : Pseudo → Option (List HostAction)
  | .readHumidity => some [.issue (Window.word .humOnly)]
  | .readTemperature => some [.issue (Window.word .tempOnly)]
  | .readAll => some [.issue (Window.word .both)]
  | .sample kind n d => if sampleInRange n d then some [.sampleRead kind (n - 1) d] else none
  | .checksum bytes =>
    some (.issue (encode .crcInit) :: bytes.map (fun b => HostAction.issue (encode (.crcByte b))) ++ [.read 1])
  | .decHum off => some [.issue (encode (.decodeHum off 0#8))]
  | .decTemp off => some [.issue (encode (.decodeTemp 0#8 off))]
  | .decBoth hoff toff => some [.issue (encode (.decodeBoth hoff toff))]
  | .hostWaitS d => some [.waitSeconds d]
  | .rd i => some [.read i]
  | .decoded kind signed => some [.issue kind.word, .decodeCheck kind signed]

/-- `SAMPLE` after a read (R183, R184): a fault ends it; else the next read follows after the delay; after the last read there
is no delay and its payload is the result. -/
def sampleNext (kind : Window) (more d : Nat) (rest : List HostAction) (s : State) : State :=
  if s.lasterr ≠ 0#8 then (s.deliver (.sampleFault s.lasterr)).withHost rest
  else
    match more with
    | 0 => (s.deliver (.sampleResult (payload s))).withHost rest
    | m + 1 => s.withHost (.waitSeconds d :: .sampleRead kind m d :: rest)

/-- The decoded form after its read (R186): on a fault no `DECODE` is issued; else the `DECODE` of the window and the reads of its
values follow. -/
def decodeNext (kind : Window) (signed : Bool) (rest : List HostAction) (s : State) : State :=
  if s.lasterr ≠ 0#8 then (s.deliver (.readFault s.lasterr)).withHost rest
  else s.withHost (.issue kind.decodeWord :: (kind.outputs signed).map HostAction.read ++ rest)

/-- A host action other than a command word or a reset, the block resting; `rest` is what the host does after it. -/
def hostAct (a : HostAction) (rest : List HostAction) (s : State) : Host.Outcome State Fault Refusal :=
  match a with
  | .issue _ => .next s
  | .reset _ _ => .next s
  | .read i => .next ((s.deliver (.value i (portRead s i))).withHost rest)
  | .waitSeconds d => .next ((s.pass (d * 1000000)).withHost rest)
  | .pseudo p =>
    match p.expand with
    | some actions => .next (s.withHost (actions ++ rest))
    | none => .refused .sampleParametersOutOfRange
  | .sampleRead kind more d => .next (s.withHost (.issue kind.word :: .sampleCheck kind more d :: rest))
  | .sampleCheck kind more d => .next (sampleNext kind more d rest s)
  | .decodeCheck kind signed => .next (decodeNext kind signed rest s)

/-- The host's word is taken off the command port at some later moment, no earlier than now (R60, log 9). -/
def takeCommand (rest : List HostAction) (s : State) : State := (s.withHost rest).pass 0

/-- An illegal word (R68, R204): accepted, nothing changes but `BUSY`, `LASTERR`, `ERRPHASE`. -/
def rejectWord (s : State) : State := s.accept.raise .cmdIllegal

end Sys2Proof.Machine
end

