-- ==== Sys2Proof/Machine/Step.lean ====
section
/-! DEFINITION. One step of the machine: a reset, or the command in progress, or the host's next action (`30_encoding.md` R60,
`70_reset_and_hazards.md` R240, R241). -/

namespace Sys2Proof.Machine

/-- The command word `w` is accepted and run, the block resting (R60, R68). -/
def runWord (w : Word) (s : State) : Host.Outcome State Fault Refusal :=
  match decode w with
  | .ok i => exec i s
  | .error _ => .next (rejectWord s)

/-- One step. A reset may occur at any time, also while `BUSY` = 1 (R240): a command it lands in has stopped where
`movesAllowed` says. While `BUSY` = 1 every other action of the host is
held and the command goes on (R60, R252). At rest the host's next action happens; with none the block is inert (R241). -/
def step (s : State) : Host.Outcome State Fault Refusal :=
  match s.host with
  | [] => if s.busy then resumeCommand s else .next s
  | .reset _ left :: rest => .next (hardReset left (s.withHost rest))
  | .issue w :: rest => if s.busy then resumeCommand s else runWord w (takeCommand rest s)
  | a :: rest => if s.busy then resumeCommand s else hostAct a rest s

/-- The state in which the very next step runs the table word `w`: the word is the host's next action and the block rests, so
the word is accepted (R60). The block stores and fetches no instructions (R28); the host presents each one. -/
def State.withFetchWord (s : State) (nbits w : Nat) : State :=
  { s with
    host := .issue (BitVec.ofNat 32 (w % 2 ^ nbits)) :: s.host
    busy := false
    pending := none }

end Sys2Proof.Machine
end

