-- ==== Sys2Proof/Safety.lean ====
section
/-! DEFINITION. What counts as a good state and a good bus trace, and the terms the statements are written in. -/

namespace Sys2Proof.Machine

/-- An event whose clock values obey R116: it does not end before it begins, and a finished wait lasts at least as long as
asked. -/
def BusEvent.timed (e : BusEvent) : Prop :=
  e.began ≤ e.ended ∧ ∀ us, e.act = .wait us → e.finished = true → e.began + us ≤ e.ended

/-- R119: the events of a trace obey R116, do not overlap and are over by `now`. -/
structure TraceTimed (trace : List BusEvent) (now : Nat) : Prop where
  events : ∀ e ∈ trace, e.timed
  apart : trace.Pairwise (fun d e => d.ended ≤ e.began)
  past : ∀ e ∈ trace, e.ended ≤ now

/-- The invariant of the machine. -/
structure Inv (s : State) : Prop where
  /-- `RXBUF` is in its canonical form and inside its 259 bytes (R20). -/
  memory : Memory.wf s.rxbuf
  /-- At rest no transaction is in progress. -/
  quiet : s.busy = false → s.pending = none
  /-- At rest `SEQ` is one of the two resting states (R15). -/
  resting : s.busy = false → s.seq = .idle ∨ s.seq = .fatal
  /-- R16: where `SEQ` is a resting state, the counter says which. -/
  settled : s.seq = .idle ∨ s.seq = .fatal → s.seq = restSeq s.errcnt
  /-- `BUSY` = 1: a command is in progress (R117, R131, R141). -/
  executing : s.busy = true → inProgress s = true
  /-- R21: while `PVALID` = 1 the buffer holds a whole frame that passed the comparison. -/
  verified : s.pvalid = true →
    crc16 (checkedBytes s.rxbuf s.count) = rxCrc s.rxbuf s.count ∧ s.rxlen = BitVec.ofNat 9 (responseLen s.count)
  /-- R136: where the comparison is due a whole frame has been received. -/
  received : s.seq = .verifying → s.rxlen = BitVec.ofNat 9 (responseLen s.count)
  /-- R132: while a read is in progress nothing is verified. -/
  reading : s.seq ≠ .idle → s.seq ≠ .fatal → s.pvalid = false
  /-- R22, R23, R163: a decoded value comes from a verified payload. -/
  decoded : s.hvalid = true ∨ s.tvalid = true → s.pvalid = true
  /-- R200, R202: code 3 never appears, and no code above 7. -/
  codes : s.lasterr ∈ [0x00#8, 0x01#8, 0x02#8, 0x04#8, 0x05#8, 0x06#8, 0x07#8]
  /-- R25, R201: `ERRPHASE` is 1, 2 or 3 after a `TransportError` and 0 otherwise. -/
  phases : if s.lasterr = 0x01#8 then s.errphase ∈ [1#4, 2#4, 3#4] else s.errphase = 0#4
  /-- R116, R119. -/
  timed : TraceTimed s.trace s.now
  /-- The transaction in progress began after every event ended. -/
  since : ∀ p, s.pending = some p → p.began ≤ s.now ∧ ∀ e ∈ s.trace, e.ended ≤ p.began

/-- How far the trace is inside an attempt of `READ_REGS` (R133 to R136, R145). -/
inductive Cadence where
  /-- No attempt under way: before the wake write, or after the request failed or the receive ended. -/
  | outside
  /-- After the wake write. -/
  | woken
  /-- After the wake wait. -/
  | ready
  /-- After a request for `count` bytes was answered `Ok`. -/
  | asked (count : Byte)
  /-- After the think time. -/
  | due (count : Byte)
  /-- A step was skipped, merged or reordered. -/
  | broken
deriving DecidableEq, Repr

/-- What the cadence allows next, by the kind of event (R145); a request answered `Fail` ends the attempt (R134). -/
def Cadence.after (c : Cadence) (act : BusAct) (answer : Option BusAnswer) : Cadence :=
  match c, act with
  | .outside, .opening _ => .outside
  | .outside, .close => .outside
  | .outside, .send bytes => if bytes = wakeFrame then .woken else .broken
  | .woken, .wait us => if us = Config.wakeMicros then .ready else .broken
  | .ready, .send [f, _, count] =>
    if f = Config.funcRead then (if answer = some .ok then .asked count else .outside) else .broken
  | .asked count, .wait us => if us = Config.thinkMicros then .due count else .broken
  | .due count, .recv n => if n = responseLen count then .outside else .broken
  | _, _ => .broken

/-- One event; a reset in the middle of one (R240) leaves the attempt. -/
def Cadence.next (c : Cadence) (e : BusEvent) : Cadence :=
  if e.finished then c.after e.act e.answer
  else if c.after e.act (some .ok) = .broken then .broken else .outside

/-- Where a whole trace leaves the cadence. -/
def cadence (trace : List BusEvent) : Cadence := trace.foldl Cadence.next .outside

/-- Where the sequencer says the attempt stands. -/
def cadencePlace (s : State) : Cadence :=
  match s.pending, s.seq with
  | some ⟨.wait _, _⟩, .waking => .woken
  | some ⟨.send _, _⟩, .requesting => .ready
  | some ⟨.wait _, _⟩, .awaitingResponse => .asked s.count
  | some ⟨.recv _, _⟩, .awaitingResponse => .due s.count
  | _, _ => .outside

/-- The trace is in step with the sequencer, so it is not broken. -/
def InCadence (s : State) : Prop := cadence s.trace = cadencePlace s

/-- A trace without its clock values. -/
def BusEvent.untimed (e : BusEvent) : BusEvent := { e with began := 0, ended := 0 }

/-- The state without clock values: what the untimed rules speak of. Everything else of the state is kept. -/
def State.untimed (s : State) : State :=
  { s with now := 0, draws := 0, trace := s.trace.map BusEvent.untimed }

/-- The outcome is a next state, and it is `u` in every field but that time may have passed (R116 says nothing of how much). -/
def Answers (o : Host.Outcome State Fault Refusal) (u : State) : Prop :=
  ∃ t, o = .next t ∧ t = { u with now := t.now, draws := t.draws } ∧ u.now ≤ t.now

/-- A finished event without clock values. -/
def event (act : BusAct) (answer : Option BusAnswer) : BusEvent :=
  { act := act, answer := answer, began := 0, ended := 0, finished := true }

/-- The number of wake writes in a trace: one per attempt that got as far as the answer to it (R133). -/
def wakeWrites (trace : List BusEvent) : Nat := trace.countP (fun e => e.act == .send wakeFrame)

/-- The frames received whole, oldest first (R136). -/
def frames (trace : List BusEvent) : List (List Byte) :=
  trace.filterMap (fun e => match e.answer with | some (.data bytes) => some bytes | _ => none)

/-- The checksum `READ_REGS` computes over a received frame: its first `count + 2` bytes (R137). -/
def frameCrc (count : Byte) (bytes : List Byte) : Half := crc16 (bytes.take (count.toNat + 2))

/-- The comparison of R137 over the bytes of a frame. -/
def frameMatches (count : Byte) (bytes : List Byte) : Bool :=
  frameCrc count bytes == concat16 (bytes.getD (count.toNat + 3) 0#8) (bytes.getD (count.toNat + 2) 0#8)

/-- The frame a well-behaved device answers with (R71, R220). -/
def responseFrame (data : List Byte) : List Byte :=
  let body := [Config.funcRead, BitVec.ofNat 8 data.length] ++ data
  body ++ [(crc16 body).extractLsb' 0 8, (crc16 body).extractLsb' 8 8]

/-- The oracle's answers to one attempt that gets as far as the receive (R133, R134, R136). -/
structure Attempt where
  wake : BusReply
  request : BusReply
  response : BusReply
deriving DecidableEq, Repr

/-- The answers in the order the block asks for them. -/
def Attempt.replies (x : Attempt) : List BusReply := [x.wake, x.request, x.response]

/-- The attempt receives a whole frame of `count + 4` bytes; the wake answer does not matter. -/
def Attempt.delivers (x : Attempt) (count : Byte) (bytes : List Byte) : Prop :=
  x.request.accepted = true ∧ x.response.received (responseLen count) = some bytes

/-- The attempt receives a frame that matches. -/
def Attempt.matching (count : Byte) (x : Attempt) : Prop := ∃ bytes, x.delivers count bytes ∧ frameMatches count bytes = true

/-- The attempt receives a frame that does not match. -/
def Attempt.mismatching (count : Byte) (x : Attempt) : Prop := ∃ bytes, x.delivers count bytes ∧ frameMatches count bytes = false

/-- Attempts one `READ_REGS` may make, from the counter's value at entry (R142). -/
def attemptBudget (errcnt : Byte) : Nat := max 1 (Config.errThreshold + 1 - errcnt.toNat)

/-- Commands run one after the other, each after the one before has completed (R76); none when one does not. -/
def execAll : List Instr → State → Option State
  | [], s => some s
  | i :: is, s =>
    match exec i s with
    | .next t => if t.busy then none else execAll is t
    | .fault _ => none
    | .refused _ => none

/-- R68, clause by clause. -/
def illegalByRule (w : Word) : Prop :=
  let op := w.extractLsb' 24 8
  let a := w.extractLsb' 16 8
  let c := w.extractLsb' 0 8
  op = 0x00#8 ∨ 0x07#8 ≤ op
    ∨ ((op = 0x01#8 ∨ op = 0x05#8) ∧ w.extractLsb' 0 24 ≠ 0#24)
    ∨ (op = 0x02#8 ∧ w.extractLsb' 0 16 ≠ 0#16)
    ∨ (op = 0x03#8 ∧ c ≠ 0#8)
    ∨ (op = 0x04#8 ∧ (a.extractLsb' 7 1 = 1#1 ∨ w.extractLsb' 0 16 ≠ 0#16))
    ∨ (op = 0x06#8 ∧ (c.extractLsb' 2 6 ≠ 0#6 ∨ c.extractLsb' 0 2 = 0#2))

/-- The host's next action is a reset. -/
def resetNext (s : State) : Bool :=
  match s.host with
  | .reset _ _ :: _ => true
  | _ => false

end Sys2Proof.Machine
end

