-- ==== Sys2Proof/Certificates/Slice0/Obligations.lean ====
section
/-! DEFINITION. The statements for the provers. Each names the rule of `spec/` it rests on. -/

open Sys2Proof Sys2Proof.Machine

/-! ### Encoding -/

/-- Words written out from R62 to R67 (`95_test_vectors.md` V5) decode to the commands they stand for. -/
def Obligations.SpecWordsDecode : Prop :=
  decode 0x01000000#32 = .ok .crcInit
    ∧ decode 0x02AB0000#32 = .ok (.crcByte 0xAB#8)
    ∧ decode 0x0302FF00#32 = .ok (.readRegs 0x02#8 0xFF#8)
    ∧ decode 0x045C0000#32 = .ok (.openBus 0x5C#8)
    ∧ decode 0x05000000#32 = .ok .close
    ∧ decode 0x06FF0001#32 = .ok (.decodeHum 0xFF#8 0x00#8)
    ∧ decode 0x0600FE02#32 = .ok (.decodeTemp 0x00#8 0xFE#8)
    ∧ decode 0x06000203#32 = .ok (.decodeBoth 0x00#8 0x02#8)

/-- Every well-formed command is read back from its own word, every operand at every value (R62 to R67). -/
def Obligations.DecodeEncodeRoundTrip : Prop :=
  ∀ i : Instr, i.wf = true → decode (encode i) = .ok i

/-- A word that decodes is the word of the command it decodes to, and that command is well-formed (R68: every word is exactly
one of the commands or illegal). -/
def Obligations.DecodedWordIsTheEncodedOne : Prop :=
  ∀ (w : Word) (i : Instr), decode w = .ok i → encode i = w ∧ i.wf = true

/-- R68: the illegal words are exactly those of the rule, and an illegal word accepted at rest changes nothing but `BUSY`,
`LASTERR`, `ERRPHASE` (the word leaves the host's queue; nothing is said of how much time passes). -/
def Obligations.IllegalWordsRaiseCmdIllegal : Prop :=
  (∀ w : Word, (∃ e, decode w = .error e) ↔ illegalByRule w)
    ∧ ∀ (s : State) (w : Word) (rest : List HostAction), illegalByRule w → s.busy = false → s.host = .issue w :: rest →
        Answers (step s) { s with host := rest, lasterr := 0x04#8, errphase := 0#4, busy := false }

/-! ### The step -/

/-- At rest the word the host presents is accepted and step is exec of the command it decodes to; around exec the step takes the
word off the host's queue and lets time pass, no more (R60; that a word may wait before it is taken is the model's choice, log 9). -/
def Obligations.StepRunsTheDecodedCommand : Prop :=
  ∀ (s : State) (w : Word) (rest : List HostAction) (i : Instr), s.host = .issue w :: rest → s.busy = false →
    decode w = .ok i →
      step s = exec i (takeCommand rest s)
        ∧ takeCommand rest s =
            { s with host := rest, now := (takeCommand rest s).now, draws := (takeCommand rest s).draws }
        ∧ s.now ≤ (takeCommand rest s).now

/-- While `BUSY` = 1 every action of the host but a reset is held: the step is the one that would be taken with no host action
there, the queue waits whole, and the host receives nothing (R60, R252). -/
def Obligations.BusyBlockHoldsTheHost : Prop :=
  ∀ s : State, Inv s → s.busy = true → resetNext s = false →
    ∃ t, step { s with host := [] } = .next t ∧ step s = .next { t with host := s.host } ∧ t.results = s.results

/-- R241: at rest with no action of the host nothing happens but that time may pass, after a reset or at any other time. -/
def Obligations.InertUntilTheHostActs : Prop :=
  (∀ s : State, s.busy = false → s.host = [] → ∃ t, step s = .next t ∧ t.untimed = s.untimed)
    ∧ ∀ (left : Leftover) (s : State), s.host = [] →
        ∃ t, step (hardReset left s) = .next t ∧ t.untimed = (hardReset left s).untimed

/-- R120: a `BusOpen`, `BusSend` or `BusRecv` that is never answered leaves the command where it is for ever, no fault (the form of
the hang is log 4, that the clock stands still too is log 9); a reset ends it. -/
def Obligations.UnansweredTransactionHangs : Prop :=
  (∀ s : State, Inv s → s.busy = true → s.replies = [] → resetNext s = false →
      (∃ p, s.pending = some p ∧ (∀ us, p.act ≠ .wait us) ∧ p.act ≠ .close) → step s = .next s)
    ∧ ∀ (s : State) (after : Nat) (left : Leftover) (rest : List HostAction), s.host = .reset after left :: rest →
        ∃ t, step s = .next t ∧ t.busy = false ∧ t.seq = .idle ∧ t.pending = none

/-! ### Checksum accumulator -/

/-- R90: `crc_step` is the pseudocode of the rule, and the rule's worked value. -/
def Obligations.CrcStepIsTheRulesLoop : Prop :=
  (∀ (c : Half) (b : Byte), crcStep c b =
      (fun v : Half => if v.getLsbD 0 then (v >>> 1) ^^^ 0xA001#16 else v >>> 1)^[8] (c ^^^ b.setWidth 16))
    ∧ crcStep 0xFFFF#16 0x01#8 = 0x807E#16

/-- R92: `CRC_INIT`, from every state; nothing is said of how much time passes. -/
def Obligations.CrcInitSeeds : Prop :=
  ∀ s : State, Answers (exec .crcInit s) { s with crc := 0xFFFF#16, lasterr := 0#8, errphase := 0#4, busy := false }

/-- R93: `CRC_BYTE a`, from every state, for every byte; nothing is said of how much time passes. -/
def Obligations.CrcByteSteps : Prop :=
  ∀ (s : State) (a : Byte), Answers (exec (.crcByte a) s)
    { s with crc := crcStep s.crc a, lasterr := 0#8, errphase := 0#4, busy := false }

/-- R95: `CRC_INIT` and one `CRC_BYTE` per byte compute `crc16`, and go on from it. -/
def Obligations.IncrementalChecksum : Prop :=
  ∀ (s : State) (xs ys : List Byte), ∃ t,
    execAll (.crcInit :: (xs ++ ys).map .crcByte) s = some t
      ∧ t.crc = ys.foldl crcStep (crc16 xs)
      ∧ t.crc = crc16 (xs ++ ys)

/-- R96: the residue law and its consequence for the comparison of a frame. -/
def Obligations.ChecksumResidue : Prop :=
  (∀ bs : List Byte, crc16 (bs ++ [(crc16 bs).extractLsb' 0 8, (crc16 bs).extractLsb' 8 8]) = 0x0000#16)
    ∧ ∀ (bs : List Byte) (lo hi : Byte), crc16 (bs ++ [lo, hi]) = 0x0000#16 ↔ crc16 bs = hi ++ lo

/-- R97: `crc_step` is a bijection in the value and injective in the byte, so changing one byte of a sequence changes its
checksum. -/
def Obligations.ChecksumSeesOneByte : Prop :=
  (∀ b : Byte, Function.Bijective (fun c => crcStep c b))
    ∧ (∀ c : Half, Function.Injective (crcStep c))
    ∧ ∀ (pre post : List Byte) (b b' : Byte), b ≠ b' → crc16 (pre ++ b :: post) ≠ crc16 (pre ++ b' :: post)

/-! ### Bus commands -/

/-- R117: `OPEN a` with a handle raises `BadState`; without one it completes on the answer `Ok` and raises `TransportError` of
phase 1 on `Fail`. The whole next state but for clock values is given: what is not written is unchanged. (The host does not reset
the block inside the command; where it does, `ResetLandsInsideACommand` speaks.) Of `HUM`, `TNEG` and `TMAG` after a success
nothing is said, they are cleared and any value (R22, R23, U10); their valid bits are 0. -/
def Obligations.OpenFollowsItsRule : Prop :=
  ∀ (s : State) (a : Byte), Instr.wf (.openBus a) = true →
    (s.opened = true → Answers (exec (.openBus a) s) { s with lasterr := 0x05#8, errphase := 0#4, busy := false })
      ∧ ∀ (r : BusReply) (rest : List BusReply), s.opened = false → s.replies = r :: rest → resetNext s = false →
          (r.accepted = true → ∃ t, exec (.openBus a) s = .next t ∧ t.untimed =
            { s.untimed with
              devaddr := a.extractLsb' 0 7, opened := true, errcnt := 0#8, pvalid := false, hvalid := false, tvalid := false
              hum := t.hum, tneg := t.tneg, tmag := t.tmag
              seq := .idle, lasterr := 0#8, errphase := 0#4, busy := false, pending := none, replies := rest
              trace := s.untimed.trace ++ [event (.opening (a.extractLsb' 0 7)) (some .ok)] })
          ∧ (r.accepted = false → ∃ t, exec (.openBus a) s = .next t ∧ t.untimed =
            { s.untimed with
              lasterr := 0x01#8, errphase := 1#4, busy := false, pending := none, replies := rest
              trace := s.untimed.trace ++ [event (.opening (a.extractLsb' 0 7)) (some .fail)] })

/-- `OPEN` whose `BusOpen` is not answered does not complete: `BUSY` stays 1, nothing else has changed (R117, R120). That this is a
next state with the call in `pending` is the model's reading, log 4 and log 11; that the clock stands at its start is log 9. -/
def Obligations.UnansweredOpenStaysBusy : Prop :=
  ∀ (s : State) (a : Byte), Instr.wf (.openBus a) = true → s.opened = false → s.replies = [] →
    exec (.openBus a) s =
      .next { s with busy := true, pending := some { act := .opening (a.extractLsb' 0 7), began := s.now } }

/-- `CLOSE`, from every state, as R118 gives it; the bus is touched only when there is a handle. That `BusClose` uses none of the
oracle's coming answers is the model's reading, log 10. (With a handle, the host does not reset the block inside the command.) -/
def Obligations.CloseFollowsItsRule : Prop :=
  ∀ s : State,
    (s.opened = true → resetNext s = false → ∃ t, exec .close s = .next t ∧ t.untimed =
        { s.untimed with
          opened := false, lasterr := 0#8, errphase := 0#4, busy := false, pending := none
          trace := s.untimed.trace ++ [event .close (some .ok)] })
      ∧ (s.opened = false → Answers (exec .close s) { s with lasterr := 0#8, errphase := 0#4, busy := false })

/-! ### READ_REGS -/

/-- R131: without a handle `BadState` at once; with one the command is accepted whatever `ERRCNT` holds and an attempt begins,
its first event the wake write (`90_conflicts.md` C3). -/
def Obligations.ReadNeedsOnlyTheHandle : Prop :=
  ∀ (s : State) (a b : Byte),
    (s.opened = false → Answers (exec (.readRegs a b) s) { s with lasterr := 0x05#8, errphase := 0#4, busy := false })
      ∧ (s.opened = true → s.replies ≠ [] → resetNext s = false → ∃ t e more, exec (.readRegs a b) s = .next t
          ∧ t.trace = s.trace ++ e :: more ∧ e.act = .send [0xFF#8])

/-- R137, R138, R139: the comparison and what follows it (nothing is said of how much time passes). -/
def Obligations.VerifyFollowsItsRules : Prop :=
  ∀ s : State,
    let sum := crc16 (Memory.slice s.rxbuf 0 (s.count.toNat + 2))
    let received : Half := Memory.read s.rxbuf (s.count.toNat + 3) ++ Memory.read s.rxbuf (s.count.toNat + 2)
    (sum = received → Answers (.next (verify s))
        { s with crc := sum, errcnt := 0#8, pvalid := true, seq := .idle, lasterr := 0#8, errphase := 0#4, busy := false })
      ∧ (sum ≠ received → 5 < (satInc s.errcnt).toNat → Answers (.next (verify s))
        { s with
          crc := sum, errcnt := satInc s.errcnt, seq := .fatal, lasterr := 0x02#8, errphase := 0#4, busy := false })
      ∧ (sum ≠ received → (satInc s.errcnt).toNat ≤ 5 → ∃ began, s.now ≤ began ∧ Answers (.next (verify s))
        { s with
          crc := sum, errcnt := satInc s.errcnt, seq := .waking, pending := some { act := .send [0xFF#8], began := began } })

/-- `READ_REGS` that is answered by some mismatching frames within the budget and then a matching one completes: the payload is
that of the matching frame (R147 first row, R142, R139). The wake answers do not matter (R133). Every field but the trace is given;
of the trace, the number of wake writes. (Of `HUM`, `TNEG` and `TMAG` nothing is said, they are
cleared at entry and any value: R22, R23, U10. The buffer beyond the frame keeps what it held: R20.) -/
def Obligations.ReadCompletesOnAMatch : Prop :=
  ∀ (s : State) (a b : Byte) (bad : List Attempt) (good : Attempt) (bytes : List Byte) (rest : List BusReply),
    s.opened = true → resetNext s = false → Memory.wf s.rxbuf →
    (∀ x ∈ bad, x.mismatching b) → bad.length < attemptBudget s.errcnt →
    good.delivers b bytes → frameMatches b bytes = true →
    s.replies = (bad ++ [good]).flatMap Attempt.replies ++ rest →
    ∃ t, exec (.readRegs a b) s = .next t
      ∧ t.untimed =
          { s.untimed with
            hum := t.hum, tneg := t.tneg, tmag := t.tmag
            start := a, count := b, pvalid := true, hvalid := false, tvalid := false, errcnt := 0#8, seq := .idle
            crc := frameCrc b bytes, rxbuf := t.rxbuf, rxlen := BitVec.ofNat 9 (b.toNat + 4)
            lasterr := 0#8, errphase := 0#4, busy := false, pending := none, replies := rest, trace := t.untimed.trace }
      ∧ (∀ k, k < b.toNat + 4 → Memory.read t.rxbuf k = bytes.getD k 0#8)
      ∧ (∀ k, b.toNat + 4 ≤ k → Memory.read t.rxbuf k = Memory.read s.rxbuf k)
      ∧ payload t = (bytes.drop 2).take b.toNat
      ∧ wakeWrites t.trace = wakeWrites s.trace + bad.length + 1

/-- A matching first attempt leaves exactly the trace of R148: wake write (either answer), 850, request, 1800, receive; every other
element of the next state is given too (R132 to R139, R20), but clock values and `HUM`, `TNEG`, `TMAG`, which are cleared at entry
and any value (R22, R23, U10). -/
def Obligations.FirstAttemptTrace : Prop :=
  ∀ (s : State) (a b : Byte) (x : Attempt) (bytes : List Byte) (rest : List BusReply),
    s.opened = true → resetNext s = false → x.delivers b bytes → frameMatches b bytes = true → Memory.wf s.rxbuf →
    s.replies = x.replies ++ rest →
    ∃ t, exec (.readRegs a b) s = .next t ∧ t.untimed =
      { s.untimed with
        hum := t.hum, tneg := t.tneg, tmag := t.tmag
        start := a, count := b, pvalid := true, hvalid := false, tvalid := false, errcnt := 0#8, seq := .idle
        crc := frameCrc b bytes, rxbuf := Memory.writeBytes s.rxbuf 0 bytes, rxlen := BitVec.ofNat 9 (b.toNat + 4)
        lasterr := 0#8, errphase := 0#4, busy := false, pending := none, replies := rest
        trace := s.untimed.trace ++
          [ event (.send [0xFF#8]) (some (if x.wake.accepted then .ok else .fail)), event (.wait 850) none
          , event (.send [0x03#8, a, b]) (some .ok), event (.wait 1800) none
          , event (.recv (b.toNat + 4)) (some (.data bytes)) ] }

/-- Only mismatching frames: exactly `max(1, 6 - e0)` attempts, then `ProtocolExhausted` with the counter at
`max(6, e0 + 1)`, saturating (R142). -/
def Obligations.ReadExhaustsItsBudget : Prop :=
  ∀ (s : State) (a b : Byte) (bad : List Attempt) (rest : List BusReply),
    s.opened = true → resetNext s = false → Memory.wf s.rxbuf →
    (∀ x ∈ bad, x.mismatching b) → bad.length = max 1 (6 - s.errcnt.toNat) →
    s.replies = bad.flatMap Attempt.replies ++ rest →
    ∃ t, exec (.readRegs a b) s = .next t
      ∧ t.lasterr = 0x02#8 ∧ t.errphase = 0#4 ∧ t.busy = false ∧ t.pvalid = false ∧ t.seq = .fatal
      ∧ t.errcnt.toNat = min 255 (max 6 (s.errcnt.toNat + 1))
      ∧ t.replies = rest
      ∧ wakeWrites t.trace = wakeWrites s.trace + max 1 (6 - s.errcnt.toNat)

/-- Whatever the oracle answers, one `READ_REGS` makes at most `max(1, 6 - e0)` attempts and asks for at most 18 answers (R142). -/
def Obligations.AttemptsAreBounded : Prop :=
  ∀ (s t : State) (a b : Byte), exec (.readRegs a b) s = .next t →
    wakeWrites t.trace ≤ wakeWrites s.trace + max 1 (6 - s.errcnt.toNat)
      ∧ s.replies.length ≤ t.replies.length + 18

/-- R142, R120: a command in progress whose transactions are all answered completes. -/
def Obligations.AnsweredCommandCompletes : Prop :=
  (∀ (s : State) (a b : Byte), s.opened = true → resetNext s = false → 18 ≤ s.replies.length →
      ∃ t, exec (.readRegs a b) s = .next t ∧ t.busy = false)
    ∧ ∀ s : State, Inv s → s.busy = true → resetNext s = false → 18 ≤ s.replies.length →
        ∃ t, step s = .next t ∧ t.busy = false

/-- R134: the request write answered `Fail` ends the command in phase 2; `ERRCNT` and `CRC` are unchanged, no wait of 1800 and
no receive follow. Of `HUM`, `TNEG` and `TMAG`, cleared at entry, nothing is said (R22, R23, U10). -/
def Obligations.RequestFailureEndsTheRead : Prop :=
  ∀ (s : State) (a b : Byte) (w q : BusReply) (rest : List BusReply),
    s.opened = true → resetNext s = false → s.replies = w :: q :: rest → q.accepted = false →
    ∃ t, exec (.readRegs a b) s = .next t
      ∧ t.untimed =
          { s.untimed with
            hum := t.hum, tneg := t.tneg, tmag := t.tmag
            start := a, count := b, pvalid := false, hvalid := false, tvalid := false
            seq := if 5 < s.errcnt.toNat then .fatal else .idle
            lasterr := 0x01#8, errphase := 2#4, busy := false, pending := none, replies := rest
            trace := s.untimed.trace ++
              [ event (.send [0xFF#8]) (some (if w.accepted then .ok else .fail)), event (.wait 850) none
              , event (.send [0x03#8, a, b]) (some .fail) ] }

/-- R136: the receive answered `Fail`, a short read included, ends the command in phase 3; `ERRCNT` and `CRC` are unchanged;
of `RXBUF` and `RXLEN` nothing is said, nor of `HUM`, `TNEG` and `TMAG`, cleared at entry (R22, R23, U10). -/
def Obligations.ReceiveFailureEndsTheRead : Prop :=
  ∀ (s : State) (a b : Byte) (w q d : BusReply) (rest : List BusReply),
    s.opened = true → resetNext s = false → s.replies = w :: q :: d :: rest → q.accepted = true →
    d.received (b.toNat + 4) = none →
    ∃ t, exec (.readRegs a b) s = .next t
      ∧ t.untimed =
          { s.untimed with
            hum := t.hum, tneg := t.tneg, tmag := t.tmag
            start := a, count := b, pvalid := false, hvalid := false, tvalid := false
            seq := if 5 < s.errcnt.toNat then .fatal else .idle
            rxbuf := t.rxbuf, rxlen := t.rxlen
            lasterr := 0x01#8, errphase := 3#4, busy := false, pending := none, replies := rest
            trace := s.untimed.trace ++
              [ event (.send [0xFF#8]) (some (if w.accepted then .ok else .fail)), event (.wait 850) none
              , event (.send [0x03#8, a, b]) (some .ok), event (.wait 1800) none
              , event (.recv (b.toNat + 4)) (some .fail) ] }

/-- R147: the table of results by ending, `m` the mismatching attempts made; the frames received stand in the trace. `ERRPHASE` is
0 but for a `TransportError`, where it is 2 if the request write failed and 3 if the receive did, after any number of mismatches
(R134, R136, R201). -/
def Obligations.ResultsByEnding : Prop :=
  ∀ (s t : State) (a b : Byte), exec (.readRegs a b) s = .next t → Memory.wf s.rxbuf → t.busy = false →
    ∃ new : List (List Byte), frames t.trace = frames s.trace ++ new ∧
      ((s.opened = false ∧ t.lasterr = 0x05#8 ∧ t.errphase = 0#4 ∧ new = [] ∧ t.errcnt = s.errcnt ∧ t.pvalid = s.pvalid
          ∧ t.seq = s.seq ∧ t.crc = s.crc)
        ∨ (s.opened = true ∧ t.lasterr = 0x00#8 ∧ t.errphase = 0#4 ∧ t.errcnt = 0#8 ∧ t.pvalid = true ∧ t.seq = .idle
          ∧ ∃ bad bytes, new = bad ++ [bytes] ∧ (∀ f ∈ bad, frameMatches b f = false) ∧ frameMatches b bytes = true
            ∧ t.crc = frameCrc b bytes)
        ∨ (s.opened = true ∧ t.lasterr = 0x02#8 ∧ t.errphase = 0#4 ∧ (∀ f ∈ new, frameMatches b f = false)
          ∧ t.errcnt.toNat = min 255 (s.errcnt.toNat + new.length) ∧ 5 < t.errcnt.toNat ∧ t.pvalid = false ∧ t.seq = .fatal
          ∧ ∃ bad bytes, new = bad ++ [bytes] ∧ t.crc = frameCrc b bytes)
        ∨ (s.opened = true ∧ t.lasterr = 0x01#8 ∧ (∀ f ∈ new, frameMatches b f = false)
          ∧ t.errcnt.toNat = min 255 (s.errcnt.toNat + new.length) ∧ t.pvalid = false
          ∧ t.seq = (if 5 < t.errcnt.toNat then .fatal else .idle)
          ∧ (new = [] → t.crc = s.crc) ∧ (∀ bad bytes, new = bad ++ [bytes] → t.crc = frameCrc b bytes)
          ∧ ∃ e, t.trace.getLast? = some e ∧ e.answer = some .fail
            ∧ ((e.act = .send [0x03#8, a, b] ∧ t.errphase = 2#4) ∨ (e.act = .recv (b.toNat + 4) ∧ t.errphase = 3#4))))

/-- After a `READ_REGS` with a handle that ended in a fault the host can read no byte of any frame (R217, R21). -/
def Obligations.NoPartialResult : Prop :=
  ∀ (s t : State) (a b : Byte) (k : Nat), s.opened = true → exec (.readRegs a b) s = .next t → t.busy = false →
    t.lasterr ≠ 0#8 → t.pvalid = false ∧ portRead t (0x100 + k) = 0#32

/-- The frame of `READ_REGS`, whatever its ending: the handle, the bound address and the host are unchanged, the trace only grows;
with a handle `START` and `COUNT` are those of R132 and the decoder's outputs are cleared, so the port gives 0 for them (R22, R23,
R26), without one all of these are unchanged (R131); the buffer beyond the response's `b + 4` bytes reads as before unless the
receive failed (R20, R136). -/
def Obligations.ReadLeavesTheRestAlone : Prop :=
  ∀ (s t : State) (a b : Byte), exec (.readRegs a b) s = .next t →
    t.opened = s.opened ∧ t.devaddr = s.devaddr ∧ t.host = s.host ∧ t.results = s.results ∧ s.trace <+: t.trace
      ∧ (s.opened = true → t.start = a ∧ t.count = b ∧ t.hvalid = false ∧ t.tvalid = false
          ∧ portRead t 5 = 0#32 ∧ portRead t 6 = 0#32 ∧ portRead t 7 = 0#32)
      ∧ (s.opened = false → t.start = s.start ∧ t.count = s.count ∧ t.hvalid = s.hvalid ∧ t.tvalid = s.tvalid
          ∧ t.hum = s.hum ∧ t.tneg = s.tneg ∧ t.tmag = s.tmag ∧ t.rxbuf = s.rxbuf ∧ t.rxlen = s.rxlen)
      ∧ (Memory.wf s.rxbuf → t.busy = true ∨ t.errphase ≠ 3#4 →
          ∀ k, b.toNat + 4 ≤ k → Memory.read t.rxbuf k = Memory.read s.rxbuf k)

/-- R133: the answer to a wake write changes nothing but its own record in the trace. For a whole `READ_REGS`, its first wake
write; for the wake write of any attempt, the move that hears the answer. -/
def Obligations.WakeAnswerIsDiscarded : Prop :=
  (∀ (s t : State) (a b : Byte) (w w' : BusReply) (rest : List BusReply), s.opened = true → resetNext s = false →
      exec (.readRegs a b) { s with replies := w :: rest } = .next t →
      ∃ e answer more, e.act = .send [0xFF#8] ∧ t.trace = s.trace ++ e :: more
        ∧ exec (.readRegs a b) { s with replies := w' :: rest } =
            .next { t with trace := s.trace ++ { e with answer := answer } :: more })
    ∧ ∀ (s : State) (p : Pending) (bytes : List Byte) (w w' : BusReply) (rest : List BusReply),
        s.pending = some p → p.act = .send bytes → s.seq = .waking →
        ∃ e answer, (tick { s with replies := w :: rest }).trace = s.trace ++ [e]
          ∧ tick { s with replies := w' :: rest } =
              { tick { s with replies := w :: rest } with trace := s.trace ++ [{ e with answer := answer }] }

/-- A device that answers the request with the frame of R71 around `data` is read right: the payload buffer and the port give
exactly `data` (R42, R71, R130). -/
def Obligations.WellFormedFrameIsDelivered : Prop :=
  ∀ (s : State) (a : Byte) (data : List Byte) (w q : BusReply) (rest : List BusReply),
    s.opened = true → resetNext s = false → Memory.wf s.rxbuf → data.length ≤ 255 → q.accepted = true →
    s.replies = w :: q :: .ok (responseFrame data) :: rest →
    ∃ t, exec (.readRegs a (BitVec.ofNat 8 data.length)) s = .next t ∧ t.busy = false ∧ t.lasterr = 0#8
      ∧ payload t = data
      ∧ ∀ k, k < data.length → portRead t (0x100 + k) = (data.getD k 0#8).setWidth 32

/-- R141: `SEQ` changes only as the table says: by one move of a `READ_REGS` in progress, row by row, by the entry of a read, by a
successful `OPEN`, by a reset; a read refused with `BadState`, an `OPEN` that fails, an unanswered transaction (R120) and every
other command leave it. -/
def Obligations.SequencerFollowsItsTable : Prop :=
  (∀ (s : State) (a b : Byte), (readEntry a b s).seq = .waking)
    ∧ (∀ (s t : State) (a b : Byte), s.opened = false → exec (.readRegs a b) s = .next t → t.seq = s.seq)
    ∧ (∀ (s : State) (p : Pending), s.pending = some p → s.seq = .waking →
        ((∃ bs, p.act = .send bs) → (tick s).seq = .waking) ∧ ((∃ us, p.act = .wait us) → (tick s).seq = .requesting))
    ∧ (∀ (s : State) (p : Pending) (bs : List Byte) (r : BusReply) (rest : List BusReply),
        s.pending = some p → p.act = .send bs → s.seq = .requesting → s.replies = r :: rest →
          (r.accepted = true → (tick s).seq = .awaitingResponse)
            ∧ (r.accepted = false → (tick s).seq = if 5 < s.errcnt.toNat then .fatal else .idle))
    ∧ (∀ (s : State) (p : Pending) (us : Nat), s.pending = some p → p.act = .wait us → s.seq = .awaitingResponse →
        (tick s).seq = .awaitingResponse)
    ∧ (∀ (s : State) (p : Pending) (n : Nat) (r : BusReply) (rest : List BusReply),
        s.pending = some p → p.act = .recv n → s.seq = .awaitingResponse → s.replies = r :: rest →
          (r.received n ≠ none → (tick s).seq = .verifying)
            ∧ (r.received n = none → (tick s).seq = if 5 < s.errcnt.toNat then .fatal else .idle))
    ∧ (∀ s : State, s.pending = none → s.seq = .verifying →
        (crc16 (checkedBytes s.rxbuf s.count) = rxCrc s.rxbuf s.count → (tick s).seq = .idle)
          ∧ (crc16 (checkedBytes s.rxbuf s.count) ≠ rxCrc s.rxbuf s.count →
              (tick s).seq = if 5 < (satInc s.errcnt).toNat then .fatal else .waking))
    ∧ (∀ (s : State) (p : Pending), s.pending = some p → (∀ us, p.act ≠ .wait us) → p.act ≠ .close → s.replies = [] →
        (tick s).seq = s.seq)
    ∧ (∀ (s : State) (p : Pending) (addr : BitVec 7) (r : BusReply) (rest : List BusReply),
        s.pending = some p → p.act = .opening addr → s.replies = r :: rest →
          (tick s).seq = if r.accepted then .idle else s.seq)
    ∧ (∀ (s : State) (p : Pending), s.pending = some p → p.act = .close → (tick s).seq = s.seq)
    ∧ (∀ (s t : State) (i : Instr), exec i s = .next t → (∀ a b, i ≠ .readRegs a b) →
        t.seq = s.seq ∨ (t.seq = .idle ∧ t.opened = true ∧ ∃ a, i = .openBus a))
    ∧ ∀ (s t : State) (after : Nat) (left : Leftover) (rest : List HostAction), s.host = .reset after left :: rest →
        step s = .next t → t.seq = .idle

/-! ### DECODE -/

/-- R163: `DECODE a, b, c` for `c` = 1, 2, 3. Every check before any write; the whole next state is given (nothing
is said of how much time passes): on a fault nothing but the completion fields changes, otherwise the selected fields are written
and a field not selected loses its valid bit. -/
def Obligations.DecodeFollowsItsRule : Prop :=
  ∀ (s : State) (a b : Byte),
    let raw (off : Byte) : Half := Memory.read s.rxbuf (off.toNat + 2) ++ Memory.read s.rxbuf (off.toNat + 3)
    let invalid : State := { s with lasterr := 0x06#8, errphase := 0#4, busy := false }
    let range : State := { s with lasterr := 0x07#8, errphase := 0#4, busy := false }
    (s.pvalid = false →
        Answers (exec (.decodeHum a b) s) invalid ∧ Answers (exec (.decodeTemp a b) s) invalid
          ∧ Answers (exec (.decodeBoth a b) s) invalid)
      ∧ (s.pvalid = true → s.count.toNat ≤ a.toNat + 1 →
          Answers (exec (.decodeHum a b) s) range ∧ Answers (exec (.decodeBoth a b) s) range)
      ∧ (s.pvalid = true → s.count.toNat ≤ b.toNat + 1 →
          Answers (exec (.decodeTemp a b) s) range ∧ Answers (exec (.decodeBoth a b) s) range)
      ∧ (s.pvalid = true → a.toNat + 1 < s.count.toNat → Answers (exec (.decodeHum a b) s)
          { s with hum := raw a, hvalid := true, tvalid := false, lasterr := 0#8, errphase := 0#4, busy := false })
      ∧ (s.pvalid = true → b.toNat + 1 < s.count.toNat → Answers (exec (.decodeTemp a b) s)
          { s with
            tneg := (raw b).getLsbD 15, tmag := (raw b).extractLsb' 0 15, hvalid := false, tvalid := true
            lasterr := 0#8, errphase := 0#4, busy := false })
      ∧ (s.pvalid = true → a.toNat + 1 < s.count.toNat → b.toNat + 1 < s.count.toNat → Answers (exec (.decodeBoth a b) s)
          { s with
            hum := raw a, hvalid := true, tneg := (raw b).getLsbD 15, tmag := (raw b).extractLsb' 0 15, tvalid := true
            lasterr := 0#8, errphase := 0#4, busy := false })

/-- R162: `dec_temp` splits a raw value into sign and magnitude; nothing is sign-extended and nothing is lost. -/
def Obligations.TemperatureIsSignMagnitude : Prop :=
  ∀ raw : Half,
    decTempNeg raw = raw.getLsbD 15 ∧ (decTempMag raw).toNat = (raw &&& 0x7FFF#16).toNat
      ∧ (raw.getLsbD 15 = false → (decTempMag raw).toNat = raw.toNat)
      ∧ raw.toNat = (if decTempNeg raw then 32768 else 0) + (decTempMag raw).toNat
      ∧ decTempNeg 0x8141#16 = true ∧ decTempMag 0x8141#16 = 321#15

/-- R24: `TEMP_S` is the two's-complement number of the signed tenths, never `0x8000`, 0 for both zeros. -/
def Obligations.TempSIsTheSignedValue : Prop :=
  (∀ mag : BitVec 15, (tempS true mag).toInt = -(mag.toNat : Int) ∧ (tempS false mag).toInt = (mag.toNat : Int))
    ∧ (∀ (neg : Bool) (mag : BitVec 15), tempS neg mag ≠ 0x8000#16)
    ∧ tempS true 0#15 = 0#16 ∧ tempS false 0#15 = 0#16

/-! ### Counter, status and the read port -/

/-- R14: the counter counts up to 255 and never wraps, and saturation never changes the test of R13. -/
def Obligations.CounterSaturates : Prop :=
  ∀ v : Byte, (satInc v).toNat = min 255 (v.toNat + 1)
    ∧ exhausted (satInc v) = decide (5 < v.toNat + 1)

/-- R25, R15: the layout of `STATUS` and the encoding of `SEQ` in it. -/
def Obligations.StatusLayout : Prop :=
  ∀ s : State,
    (status s).getLsbD 0 = s.busy ∧ (status s).getLsbD 1 = s.opened ∧ (status s).getLsbD 2 = s.pvalid
      ∧ (status s).getLsbD 3 = s.hvalid ∧ (status s).getLsbD 4 = s.tvalid
      ∧ (status s).getLsbD 5 = decide (5 < s.errcnt.toNat) ∧ (status s).extractLsb' 6 2 = 0#2
      ∧ (status s).extractLsb' 8 8 = s.lasterr ∧ (status s).extractLsb' 16 4 = s.errphase
      ∧ (status s).extractLsb' 20 4 = 0#4 ∧ (status s).extractLsb' 24 3 = s.seq.code ∧ (status s).extractLsb' 27 5 = 0#5
      ∧ Seq.idle.code = 0#3 ∧ Seq.waking.code = 1#3 ∧ Seq.requesting.code = 2#3 ∧ Seq.awaitingResponse.code = 3#3
      ∧ Seq.verifying.code = 4#3 ∧ Seq.fatal.code = 5#3

/-- R26: the register map, and reading at rest changes nothing of the block: the host receives the value, no more
(nothing is said of how much time passes). -/
def Obligations.ReadPortMap : Prop :=
  (∀ s : State,
    portRead s 0 = status s
      ∧ (portRead s 1).toNat = s.crc.toNat
      ∧ (portRead s 2).toNat = s.errcnt.toNat
      ∧ (portRead s 3).toNat = s.devaddr.toNat
      ∧ (portRead s 4).toNat = 256 * s.start.toNat + s.count.toNat
      ∧ (portRead s 5).toNat = (if s.hvalid then s.hum.toNat else 0)
      ∧ (portRead s 6).toNat = (if s.tvalid then 32768 * s.tneg.toNat + s.tmag.toNat else 0)
      ∧ (portRead s 7).toNat = (if s.tvalid then (tempS s.tneg s.tmag).toNat else 0)
      ∧ (∀ k, k ≤ 254 → (portRead s (0x100 + k)).toNat =
          if s.pvalid = true ∧ k < s.count.toNat then (Memory.read s.rxbuf (k + 2)).toNat else 0)
      ∧ ∀ i, 7 < i → (i < 0x100 ∨ 0x1FE < i) → portRead s i = 0#32)
    ∧ ∀ (s : State) (i : Nat) (rest : List HostAction), s.busy = false → s.host = .read i :: rest →
        Answers (step s) { s with host := rest, results := s.results ++ [.value i (portRead s i)] }

/-- What the port shows of `RXBUF` is the verified payload alone: two buffers that agree on it, or any two while nothing is
verified, give the host the same values (R20, R21); so do any two values of `HUM`, `TNEG` and `TMAG` while their valid bit is 0
(R26, U10). -/
def Obligations.HiddenBytesStayHidden : Prop :=
  ∀ (s : State) (m : Memory) (len : BitVec 9) (hum : Half) (neg : Bool) (mag : BitVec 15),
    (s.pvalid = true → ∀ k, k < s.count.toNat → Memory.read m (k + 2) = Memory.read s.rxbuf (k + 2)) →
    (s.hvalid = true → hum = s.hum) → (s.tvalid = true → neg = s.tneg ∧ mag = s.tmag) →
    ∀ i, portRead { s with rxbuf := m, rxlen := len, hum := hum, tneg := neg, tmag := mag } i = portRead s i

/-! ### Reset -/

/-- R30: the state after reset, as far as the spec gives values. -/
def Obligations.ResetValues : Prop :=
  State.reset.crc = 0xFFFF#16 ∧ State.reset.errcnt = 0#8 ∧ State.reset.seq = .idle ∧ State.reset.opened = false
    ∧ State.reset.devaddr = 0x5C#7 ∧ State.reset.start = 0#8 ∧ State.reset.count = 0#8 ∧ State.reset.rxlen = 0#9
    ∧ State.reset.pvalid = false ∧ State.reset.hvalid = false ∧ State.reset.tvalid = false ∧ State.reset.busy = false
    ∧ State.reset.lasterr = 0#8 ∧ State.reset.errphase = 0#4

/-- R240: a reset from every state, `BUSY` = 1 included, gives every element its value of R30, abandons the command without a
fault code and leaves a transaction in progress unfinished in the trace; of the unspecified elements nothing is said
(the form of the unfinished event, and that a wait
in progress is left so too, is the model's choice, log 16). -/
def Obligations.ResetEvent : Prop :=
  ∀ (s : State) (after : Nat) (left : Leftover) (rest : List HostAction), s.host = .reset after left :: rest →
    ∃ t, step s = .next t
      ∧ t.crc = 0xFFFF#16 ∧ t.errcnt = 0#8 ∧ t.seq = .idle ∧ t.opened = false ∧ t.devaddr = 0x5C#7 ∧ t.start = 0#8
      ∧ t.count = 0#8 ∧ t.rxlen = 0#9 ∧ t.pvalid = false ∧ t.hvalid = false ∧ t.tvalid = false ∧ t.busy = false
      ∧ t.lasterr = 0#8 ∧ t.errphase = 0#4 ∧ t.pending = none
      ∧ t.host = rest ∧ t.results = s.results ∧ s.now ≤ t.now
      ∧ (s.pending = none → t.trace = s.trace)
      ∧ ∀ p, s.pending = some p → ∃ e, t.trace = s.trace ++ [e] ∧ e.act = p.act ∧ e.answer = none ∧ e.finished = false

/-- R240: a reset may come at any time, also where the bus answers: inside the wake wait and the think time of a read, inside
`OPEN`, inside `CLOSE`. The command stops there with `BUSY` = 1, and the reset leaves that call unfinished in the trace. R240 says
that of a bus transaction; that a wait too stands there as an unfinished, unanswered event, and the form of such an event, is the
model's choice, log 16. Where in a command a reset lands is said by its count of moves, the model's choice too, log 29. -/
def Obligations.ResetLandsInsideACommand : Prop :=
  ∀ (s : State) (a b : Byte) (left : Leftover) (rest : List HostAction),
    let at_ (n : Nat) : State := { s with host := .reset n left :: rest }
    let cut (o : Host.Outcome State Fault Refusal) (act : BusAct) : Prop :=
      ∃ t u e before, o = .next t ∧ t.busy = true ∧ step t = .next u ∧ u.busy = false ∧ u.seq = .idle ∧ u.host = rest
        ∧ u.trace = before ++ [e] ∧ s.trace <+: before ∧ e.act = act ∧ e.answer = none ∧ e.finished = false
    (∀ (w : BusReply) (more : List BusReply), s.opened = true → s.replies = w :: more →
        cut (exec (.readRegs a b) (at_ 1)) (.wait 850))
      ∧ (∀ (w q : BusReply) (more : List BusReply), s.opened = true → s.replies = w :: q :: more → q.accepted = true →
        cut (exec (.readRegs a b) (at_ 3)) (.wait 1800))
      ∧ (s.opened = false → Instr.wf (.openBus a) = true → cut (exec (.openBus a) (at_ 0)) (.opening (a.extractLsb' 0 7)))
      ∧ (s.opened = true → cut (exec .close (at_ 0)) .close)

/-! ### Invariants and whole-machine rules -/

/-- The invariant holds after reset. -/
def Obligations.InvariantAtReset : Prop := Inv State.reset

/-- Every step keeps the invariant: the canonical form of `RXBUF` (R20), the resting rule (R16), only executing commands are
busy (R141), a verified buffer really passes the comparison (R21), decoded values come from a verified payload (R163), the fault
codes (R200, R202) and phases (R201), and the timing of the trace (R116, R119). -/
def Obligations.StepKeepsInvariant : Prop :=
  ∀ s t : State, Inv s → step s = .next t → Inv t

/-- After reset the trace is in cadence. -/
def Obligations.CadenceAtReset : Prop := InCadence State.reset

/-- R145: every step keeps the cadence: in the trace each receive is preceded at once by the 1800 wait, that by an answered
request for as many bytes, that by the 850 wait, that by the wake write; nothing is skipped, merged or reordered. (That a wait a reset
cuts short stands in the trace too is the model's choice, log 16.) -/
def Obligations.StepKeepsCadence : Prop :=
  ∀ s t : State, Inv s → InCadence s → step s = .next t → InCadence t

/-- From a state of the invariant no step faults, and the only refusal is a `SAMPLE` outside the ranges of R187 (U13; the
model's choice, log 14). -/
def Obligations.InvariantStatesNeverStop : Prop :=
  ∀ s : State, Inv s →
    (∃ t, step s = .next t)
      ∨ ∃ kind n d rest, s.host = .pseudo (.sample kind n d) :: rest ∧ s.busy = false
          ∧ ¬(2 ≤ n ∧ n ≤ 4 ∧ 2 ≤ d ∧ d ≤ 5) ∧ step s = .refused .sampleParametersOutOfRange

/-- R18: no step changes the bound address while a handle exists. -/
def Obligations.AddressIsFixedWhileOpen : Prop :=
  ∀ s t : State, Inv s → step s = .next t → s.opened = true → t.opened = true → t.devaddr = s.devaddr

/-- R12: a step changes `ERRCNT` only if it resets, or runs or continues a `READ_REGS`, or completes an `OPEN`; only a read
raises it. -/
def Obligations.CounterHasThreeWriters : Prop :=
  ∀ s t : State, Inv s → step s = .next t → t.errcnt ≠ s.errcnt →
    resetNext s = true
      ∨ (t.errcnt = 0#8 ∧ t.opened = true ∧ s.opened = false)
      ∨ (s.opened = true ∧ t.opened = true
          ∧ (s.busy = true ∨ ∃ a b rest, s.host = .issue (encode (.readRegs a b)) :: rest))

/-- A read that completes has taken at least 2650 microseconds; one that exhausts its budget from `ERRCNT` = 0 at least 15900
(R261). -/
def Obligations.ReadTakesItsTime : Prop :=
  ∀ (s t : State) (a b : Byte), s.opened = true → exec (.readRegs a b) s = .next t → t.busy = false →
    (t.lasterr = 0x00#8 → s.now + 2650 ≤ t.now)
      ∧ (t.lasterr = 0x02#8 → s.errcnt = 0#8 → s.now + 15900 ≤ t.now)

/-! ### Host sequences -/

/-- R180, R181, R182, R186: the one-command pseudo-instructions, by their words. -/
def Obligations.PseudoWords : Prop :=
  Pseudo.expand .readHumidity = some [.issue 0x03000200#32]
    ∧ Pseudo.expand .readTemperature = some [.issue 0x03020200#32]
    ∧ Pseudo.expand .readAll = some [.issue 0x03000400#32]
    ∧ (∀ off : Byte, Pseudo.expand (.decHum off) = some [.issue (encode (.decodeHum off 0#8))])
    ∧ (∀ off : Byte, Pseudo.expand (.decTemp off) = some [.issue (encode (.decodeTemp 0#8 off))])
    ∧ ∀ hoff toff : Byte, Pseudo.expand (.decBoth hoff toff) = some [.issue (encode (.decodeBoth hoff toff))]

/-- `CHECKSUM` gives the host `crc16` of the sequence, the empty one included, as R185 says; the number of steps is the model's,
log 1 and log 13. -/
def Obligations.ChecksumSequenceReadsCrc16 : Prop :=
  ∀ (s : State) (bytes : List Byte) (rest : List HostAction), s.busy = false →
    s.host = .pseudo (.checksum bytes) :: rest →
    ∃ t, Host.Core.run Sys2Proof.core (bytes.length + 3) s = .next t ∧ t.host = rest
      ∧ t.results = s.results ++ [.value 1 ((crc16 bytes).setWidth 32)] ∧ t.trace = s.trace

/-- R183: `SAMPLE kind, n, d` with every read matching at its first attempt makes `n` reads and `n - 1` delays, returns the last
read's payload and nothing of the earlier ones; the number of steps is the model's, log 1 and log 13. -/
def Obligations.SampleReturnsTheLastRead : Prop :=
  ∀ (s : State) (kind : Window) (n d : Nat) (rest : List HostAction) (xs : List Attempt) (last : Attempt) (bytes : List Byte)
    (more : List BusReply),
    Inv s → s.busy = false → s.opened = true → s.host = .pseudo (.sample kind n d) :: rest →
    2 ≤ n → n ≤ 4 → 2 ≤ d → d ≤ 5 →
    (xs ++ [last]).length = n → (∀ x ∈ xs, x.matching kind.range.2) →
    last.delivers kind.range.2 bytes → frameMatches kind.range.2 bytes = true →
    s.replies = (xs ++ [last]).flatMap Attempt.replies ++ more →
    ∃ t, Host.Core.run Sys2Proof.core (4 * n) s = .next t ∧ t.host = rest
      ∧ t.results = s.results ++ [.sampleResult ((bytes.drop 2).take kind.range.2.toNat)]
      ∧ wakeWrites t.trace = wakeWrites s.trace + n
      ∧ s.now + (n - 1) * d * 1000000 + n * 2650 ≤ t.now

/-- R184: a fault of a read ends `SAMPLE` at once: no further read, no further wait, no result but the fault (nothing is
said of how much time passes). -/
def Obligations.SampleStopsAtAFault : Prop :=
  ∀ (s : State) (kind : Window) (more d : Nat) (rest : List HostAction), s.busy = false →
    s.host = .sampleCheck kind more d :: rest → s.lasterr ≠ 0#8 →
    Answers (step s) { s with host := rest, results := s.results ++ [.sampleFault s.lasterr] }

/-- `SAMPLE` outside the ranges of R187 has no meaning here (U13: refuse); the model's refusal, log 14. -/
def Obligations.SampleOutOfRangeIsRefused : Prop :=
  ∀ (s : State) (kind : Window) (n d : Nat) (rest : List HostAction), s.busy = false →
    s.host = .pseudo (.sample kind n d) :: rest → ¬(2 ≤ n ∧ n ≤ 4 ∧ 2 ≤ d ∧ d ≤ 5) →
    step s = .refused .sampleParametersOutOfRange

/-- `HOST_WAIT_S d` lets at least `d` seconds pass with the block resting and unchanged (R183). -/
def Obligations.HostWaitOnlyPassesTime : Prop :=
  ∀ (s : State) (d : Nat) (rest : List HostAction), s.busy = false → s.host = .waitSeconds d :: rest →
    ∃ t, step s = .next t ∧ t = { s with host := rest, now := t.now, draws := t.draws }
      ∧ s.now + d * 1000000 ≤ t.now

/-- R186, R167: the decoded form issues its `DECODE` only after a read that completed without fault. On a fault the host gets the
code and nothing is decoded, as without a handle; after a matching read the host reads, from `x[5]` and the temperature register it
chose, the fields of the frame at the offsets of its window. (The ignored offset of the `DECODE` word is log 28; the number of
steps is the model's, log 1 and log 13.) -/
def Obligations.DecodedFormIsGuarded : Prop :=
  (∀ (s : State) (kind : Window) (signed : Bool) (rest : List HostAction), s.busy = false →
      s.host = .decodeCheck kind signed :: rest → s.lasterr ≠ 0#8 →
      Answers (step s) { s with host := rest, results := s.results ++ [.readFault s.lasterr] })
    ∧ (∀ (s : State) (kind : Window) (signed : Bool) (rest : List HostAction), s.busy = false →
        s.host = .pseudo (.decoded kind signed) :: rest → s.opened = false →
        ∃ t, Host.Core.run Sys2Proof.core 3 s = .next t ∧ t.host = rest ∧ t.results = s.results ++ [.readFault 0x05#8]
          ∧ t.hum = s.hum ∧ t.hvalid = s.hvalid ∧ t.tneg = s.tneg ∧ t.tmag = s.tmag ∧ t.tvalid = s.tvalid)
    ∧ ∀ (s : State) (kind : Window) (signed : Bool) (rest : List HostAction) (x : Attempt) (bytes : List Byte)
        (more : List BusReply), s.busy = false → s.opened = true → Memory.wf s.rxbuf →
        s.host = .pseudo (.decoded kind signed) :: rest → x.delivers kind.range.2 bytes →
        frameMatches kind.range.2 bytes = true → s.replies = x.replies ++ more →
        let raw (k : Nat) : Half := bytes.getD k 0#8 ++ bytes.getD (k + 1) 0#8
        let temp (k : Nat) : HostResult :=
          if signed then .value 7 ((tempS ((raw k).getLsbD 15) ((raw k).extractLsb' 0 15)).setWidth 32)
          else .value 6 ((raw k).setWidth 32)
        let read : List HostResult :=
          match kind with
          | .humOnly => [.value 5 ((raw 2).setWidth 32)]
          | .tempOnly => [temp 2]
          | .both => [.value 5 ((raw 2).setWidth 32), temp 4]
        ∃ t, Host.Core.run Sys2Proof.core (4 + read.length) s = .next t ∧ t.host = rest ∧ t.lasterr = 0#8
          ∧ t.results = s.results ++ read
end

