-- ==== Sys2Proof/Laws/State.lean ====
section
/-! SUPPORT. Each field of the state after each shared update, true by rfl, so that no proof unfolds a record update. -/

namespace Sys2Proof.Machine

@[simp] theorem State.accept_crc (s : State) : s.accept.crc = s.crc := rfl
@[simp] theorem State.accept_errcnt (s : State) : s.accept.errcnt = s.errcnt := rfl
@[simp] theorem State.accept_seq (s : State) : s.accept.seq = s.seq := rfl
@[simp] theorem State.accept_opened (s : State) : s.accept.opened = s.opened := rfl
@[simp] theorem State.accept_devaddr (s : State) : s.accept.devaddr = s.devaddr := rfl
@[simp] theorem State.accept_start (s : State) : s.accept.start = s.start := rfl
@[simp] theorem State.accept_count (s : State) : s.accept.count = s.count := rfl
@[simp] theorem State.accept_rxbuf (s : State) : s.accept.rxbuf = s.rxbuf := rfl
@[simp] theorem State.accept_rxlen (s : State) : s.accept.rxlen = s.rxlen := rfl
@[simp] theorem State.accept_pvalid (s : State) : s.accept.pvalid = s.pvalid := rfl
@[simp] theorem State.accept_hum (s : State) : s.accept.hum = s.hum := rfl
@[simp] theorem State.accept_hvalid (s : State) : s.accept.hvalid = s.hvalid := rfl
@[simp] theorem State.accept_tneg (s : State) : s.accept.tneg = s.tneg := rfl
@[simp] theorem State.accept_tmag (s : State) : s.accept.tmag = s.tmag := rfl
@[simp] theorem State.accept_tvalid (s : State) : s.accept.tvalid = s.tvalid := rfl
@[simp] theorem State.accept_busy (s : State) : s.accept.busy = true := rfl
@[simp] theorem State.accept_lasterr (s : State) : s.accept.lasterr = s.lasterr := rfl
@[simp] theorem State.accept_errphase (s : State) : s.accept.errphase = s.errphase := rfl
@[simp] theorem State.accept_pending (s : State) : s.accept.pending = s.pending := rfl
@[simp] theorem State.accept_replies (s : State) : s.accept.replies = s.replies := rfl
@[simp] theorem State.accept_now (s : State) : s.accept.now = s.now := rfl
@[simp] theorem State.accept_draws (s : State) : s.accept.draws = s.draws := rfl
@[simp] theorem State.accept_trace (s : State) : s.accept.trace = s.trace := rfl
@[simp] theorem State.accept_host (s : State) : s.accept.host = s.host := rfl
@[simp] theorem State.accept_results (s : State) : s.accept.results = s.results := rfl

@[simp] theorem State.withHost_crc (h : List HostAction) (s : State) : (s.withHost h).crc = s.crc := rfl
@[simp] theorem State.withHost_errcnt (h : List HostAction) (s : State) : (s.withHost h).errcnt = s.errcnt := rfl
@[simp] theorem State.withHost_seq (h : List HostAction) (s : State) : (s.withHost h).seq = s.seq := rfl
@[simp] theorem State.withHost_opened (h : List HostAction) (s : State) : (s.withHost h).opened = s.opened := rfl
@[simp] theorem State.withHost_devaddr (h : List HostAction) (s : State) : (s.withHost h).devaddr = s.devaddr := rfl
@[simp] theorem State.withHost_start (h : List HostAction) (s : State) : (s.withHost h).start = s.start := rfl
@[simp] theorem State.withHost_count (h : List HostAction) (s : State) : (s.withHost h).count = s.count := rfl
@[simp] theorem State.withHost_rxbuf (h : List HostAction) (s : State) : (s.withHost h).rxbuf = s.rxbuf := rfl
@[simp] theorem State.withHost_rxlen (h : List HostAction) (s : State) : (s.withHost h).rxlen = s.rxlen := rfl
@[simp] theorem State.withHost_pvalid (h : List HostAction) (s : State) : (s.withHost h).pvalid = s.pvalid := rfl
@[simp] theorem State.withHost_hum (h : List HostAction) (s : State) : (s.withHost h).hum = s.hum := rfl
@[simp] theorem State.withHost_hvalid (h : List HostAction) (s : State) : (s.withHost h).hvalid = s.hvalid := rfl
@[simp] theorem State.withHost_tneg (h : List HostAction) (s : State) : (s.withHost h).tneg = s.tneg := rfl
@[simp] theorem State.withHost_tmag (h : List HostAction) (s : State) : (s.withHost h).tmag = s.tmag := rfl
@[simp] theorem State.withHost_tvalid (h : List HostAction) (s : State) : (s.withHost h).tvalid = s.tvalid := rfl
@[simp] theorem State.withHost_busy (h : List HostAction) (s : State) : (s.withHost h).busy = s.busy := rfl
@[simp] theorem State.withHost_lasterr (h : List HostAction) (s : State) : (s.withHost h).lasterr = s.lasterr := rfl
@[simp] theorem State.withHost_errphase (h : List HostAction) (s : State) : (s.withHost h).errphase = s.errphase := rfl
@[simp] theorem State.withHost_pending (h : List HostAction) (s : State) : (s.withHost h).pending = s.pending := rfl
@[simp] theorem State.withHost_replies (h : List HostAction) (s : State) : (s.withHost h).replies = s.replies := rfl
@[simp] theorem State.withHost_now (h : List HostAction) (s : State) : (s.withHost h).now = s.now := rfl
@[simp] theorem State.withHost_draws (h : List HostAction) (s : State) : (s.withHost h).draws = s.draws := rfl
@[simp] theorem State.withHost_trace (h : List HostAction) (s : State) : (s.withHost h).trace = s.trace := rfl
@[simp] theorem State.withHost_host (h : List HostAction) (s : State) : (s.withHost h).host = h := rfl
@[simp] theorem State.withHost_results (h : List HostAction) (s : State) : (s.withHost h).results = s.results := rfl

@[simp] theorem State.deliver_crc (r : HostResult) (s : State) : (s.deliver r).crc = s.crc := rfl
@[simp] theorem State.deliver_errcnt (r : HostResult) (s : State) : (s.deliver r).errcnt = s.errcnt := rfl
@[simp] theorem State.deliver_seq (r : HostResult) (s : State) : (s.deliver r).seq = s.seq := rfl
@[simp] theorem State.deliver_opened (r : HostResult) (s : State) : (s.deliver r).opened = s.opened := rfl
@[simp] theorem State.deliver_devaddr (r : HostResult) (s : State) : (s.deliver r).devaddr = s.devaddr := rfl
@[simp] theorem State.deliver_start (r : HostResult) (s : State) : (s.deliver r).start = s.start := rfl
@[simp] theorem State.deliver_count (r : HostResult) (s : State) : (s.deliver r).count = s.count := rfl
@[simp] theorem State.deliver_rxbuf (r : HostResult) (s : State) : (s.deliver r).rxbuf = s.rxbuf := rfl
@[simp] theorem State.deliver_rxlen (r : HostResult) (s : State) : (s.deliver r).rxlen = s.rxlen := rfl
@[simp] theorem State.deliver_pvalid (r : HostResult) (s : State) : (s.deliver r).pvalid = s.pvalid := rfl
@[simp] theorem State.deliver_hum (r : HostResult) (s : State) : (s.deliver r).hum = s.hum := rfl
@[simp] theorem State.deliver_hvalid (r : HostResult) (s : State) : (s.deliver r).hvalid = s.hvalid := rfl
@[simp] theorem State.deliver_tneg (r : HostResult) (s : State) : (s.deliver r).tneg = s.tneg := rfl
@[simp] theorem State.deliver_tmag (r : HostResult) (s : State) : (s.deliver r).tmag = s.tmag := rfl
@[simp] theorem State.deliver_tvalid (r : HostResult) (s : State) : (s.deliver r).tvalid = s.tvalid := rfl
@[simp] theorem State.deliver_busy (r : HostResult) (s : State) : (s.deliver r).busy = s.busy := rfl
@[simp] theorem State.deliver_lasterr (r : HostResult) (s : State) : (s.deliver r).lasterr = s.lasterr := rfl
@[simp] theorem State.deliver_errphase (r : HostResult) (s : State) : (s.deliver r).errphase = s.errphase := rfl
@[simp] theorem State.deliver_pending (r : HostResult) (s : State) : (s.deliver r).pending = s.pending := rfl
@[simp] theorem State.deliver_replies (r : HostResult) (s : State) : (s.deliver r).replies = s.replies := rfl
@[simp] theorem State.deliver_now (r : HostResult) (s : State) : (s.deliver r).now = s.now := rfl
@[simp] theorem State.deliver_draws (r : HostResult) (s : State) : (s.deliver r).draws = s.draws := rfl
@[simp] theorem State.deliver_trace (r : HostResult) (s : State) : (s.deliver r).trace = s.trace := rfl
@[simp] theorem State.deliver_host (r : HostResult) (s : State) : (s.deliver r).host = s.host := rfl
@[simp] theorem State.deliver_results (r : HostResult) (s : State) : (s.deliver r).results = s.results ++ [r] := rfl

@[simp] theorem State.pass_crc (us : Nat) (s : State) : (s.pass us).crc = s.crc := rfl
@[simp] theorem State.pass_errcnt (us : Nat) (s : State) : (s.pass us).errcnt = s.errcnt := rfl
@[simp] theorem State.pass_seq (us : Nat) (s : State) : (s.pass us).seq = s.seq := rfl
@[simp] theorem State.pass_opened (us : Nat) (s : State) : (s.pass us).opened = s.opened := rfl
@[simp] theorem State.pass_devaddr (us : Nat) (s : State) : (s.pass us).devaddr = s.devaddr := rfl
@[simp] theorem State.pass_start (us : Nat) (s : State) : (s.pass us).start = s.start := rfl
@[simp] theorem State.pass_count (us : Nat) (s : State) : (s.pass us).count = s.count := rfl
@[simp] theorem State.pass_rxbuf (us : Nat) (s : State) : (s.pass us).rxbuf = s.rxbuf := rfl
@[simp] theorem State.pass_rxlen (us : Nat) (s : State) : (s.pass us).rxlen = s.rxlen := rfl
@[simp] theorem State.pass_pvalid (us : Nat) (s : State) : (s.pass us).pvalid = s.pvalid := rfl
@[simp] theorem State.pass_hum (us : Nat) (s : State) : (s.pass us).hum = s.hum := rfl
@[simp] theorem State.pass_hvalid (us : Nat) (s : State) : (s.pass us).hvalid = s.hvalid := rfl
@[simp] theorem State.pass_tneg (us : Nat) (s : State) : (s.pass us).tneg = s.tneg := rfl
@[simp] theorem State.pass_tmag (us : Nat) (s : State) : (s.pass us).tmag = s.tmag := rfl
@[simp] theorem State.pass_tvalid (us : Nat) (s : State) : (s.pass us).tvalid = s.tvalid := rfl
@[simp] theorem State.pass_busy (us : Nat) (s : State) : (s.pass us).busy = s.busy := rfl
@[simp] theorem State.pass_lasterr (us : Nat) (s : State) : (s.pass us).lasterr = s.lasterr := rfl
@[simp] theorem State.pass_errphase (us : Nat) (s : State) : (s.pass us).errphase = s.errphase := rfl
@[simp] theorem State.pass_pending (us : Nat) (s : State) : (s.pass us).pending = s.pending := rfl
@[simp] theorem State.pass_replies (us : Nat) (s : State) : (s.pass us).replies = s.replies := rfl
@[simp] theorem State.pass_now (us : Nat) (s : State) : (s.pass us).now = s.now + us + Config.freeDelay s.draws := rfl
@[simp] theorem State.pass_draws (us : Nat) (s : State) : (s.pass us).draws = s.draws + 1 := rfl
@[simp] theorem State.pass_trace (us : Nat) (s : State) : (s.pass us).trace = s.trace := rfl
@[simp] theorem State.pass_host (us : Nat) (s : State) : (s.pass us).host = s.host := rfl
@[simp] theorem State.pass_results (us : Nat) (s : State) : (s.pass us).results = s.results := rfl

@[simp] theorem State.clearSample_crc (s : State) : s.clearSample.crc = s.crc := rfl
@[simp] theorem State.clearSample_errcnt (s : State) : s.clearSample.errcnt = s.errcnt := rfl
@[simp] theorem State.clearSample_seq (s : State) : s.clearSample.seq = s.seq := rfl
@[simp] theorem State.clearSample_opened (s : State) : s.clearSample.opened = s.opened := rfl
@[simp] theorem State.clearSample_devaddr (s : State) : s.clearSample.devaddr = s.devaddr := rfl
@[simp] theorem State.clearSample_start (s : State) : s.clearSample.start = s.start := rfl
@[simp] theorem State.clearSample_count (s : State) : s.clearSample.count = s.count := rfl
@[simp] theorem State.clearSample_rxbuf (s : State) : s.clearSample.rxbuf = s.rxbuf := rfl
@[simp] theorem State.clearSample_rxlen (s : State) : s.clearSample.rxlen = s.rxlen := rfl
@[simp] theorem State.clearSample_pvalid (s : State) : s.clearSample.pvalid = s.pvalid := rfl
@[simp] theorem State.clearSample_hum (s : State) : s.clearSample.hum = Config.freeHum s.draws := rfl
@[simp] theorem State.clearSample_hvalid (s : State) : s.clearSample.hvalid = false := rfl
@[simp] theorem State.clearSample_tneg (s : State) : s.clearSample.tneg = Config.freeTneg s.draws := rfl
@[simp] theorem State.clearSample_tmag (s : State) : s.clearSample.tmag = Config.freeTmag s.draws := rfl
@[simp] theorem State.clearSample_tvalid (s : State) : s.clearSample.tvalid = false := rfl
@[simp] theorem State.clearSample_busy (s : State) : s.clearSample.busy = s.busy := rfl
@[simp] theorem State.clearSample_lasterr (s : State) : s.clearSample.lasterr = s.lasterr := rfl
@[simp] theorem State.clearSample_errphase (s : State) : s.clearSample.errphase = s.errphase := rfl
@[simp] theorem State.clearSample_pending (s : State) : s.clearSample.pending = s.pending := rfl
@[simp] theorem State.clearSample_replies (s : State) : s.clearSample.replies = s.replies := rfl
@[simp] theorem State.clearSample_now (s : State) : s.clearSample.now = s.now := rfl
@[simp] theorem State.clearSample_draws (s : State) : s.clearSample.draws = s.draws + 1 := rfl
@[simp] theorem State.clearSample_trace (s : State) : s.clearSample.trace = s.trace := rfl
@[simp] theorem State.clearSample_host (s : State) : s.clearSample.host = s.host := rfl
@[simp] theorem State.clearSample_results (s : State) : s.clearSample.results = s.results := rfl

@[simp] theorem State.beginAct_crc (act : BusAct) (s : State) : (s.beginAct act).crc = s.crc := rfl
@[simp] theorem State.beginAct_errcnt (act : BusAct) (s : State) : (s.beginAct act).errcnt = s.errcnt := rfl
@[simp] theorem State.beginAct_seq (act : BusAct) (s : State) : (s.beginAct act).seq = s.seq := rfl
@[simp] theorem State.beginAct_opened (act : BusAct) (s : State) : (s.beginAct act).opened = s.opened := rfl
@[simp] theorem State.beginAct_devaddr (act : BusAct) (s : State) : (s.beginAct act).devaddr = s.devaddr := rfl
@[simp] theorem State.beginAct_start (act : BusAct) (s : State) : (s.beginAct act).start = s.start := rfl
@[simp] theorem State.beginAct_count (act : BusAct) (s : State) : (s.beginAct act).count = s.count := rfl
@[simp] theorem State.beginAct_rxbuf (act : BusAct) (s : State) : (s.beginAct act).rxbuf = s.rxbuf := rfl
@[simp] theorem State.beginAct_rxlen (act : BusAct) (s : State) : (s.beginAct act).rxlen = s.rxlen := rfl
@[simp] theorem State.beginAct_pvalid (act : BusAct) (s : State) : (s.beginAct act).pvalid = s.pvalid := rfl
@[simp] theorem State.beginAct_hum (act : BusAct) (s : State) : (s.beginAct act).hum = s.hum := rfl
@[simp] theorem State.beginAct_hvalid (act : BusAct) (s : State) : (s.beginAct act).hvalid = s.hvalid := rfl
@[simp] theorem State.beginAct_tneg (act : BusAct) (s : State) : (s.beginAct act).tneg = s.tneg := rfl
@[simp] theorem State.beginAct_tmag (act : BusAct) (s : State) : (s.beginAct act).tmag = s.tmag := rfl
@[simp] theorem State.beginAct_tvalid (act : BusAct) (s : State) : (s.beginAct act).tvalid = s.tvalid := rfl
@[simp] theorem State.beginAct_busy (act : BusAct) (s : State) : (s.beginAct act).busy = s.busy := rfl
@[simp] theorem State.beginAct_lasterr (act : BusAct) (s : State) : (s.beginAct act).lasterr = s.lasterr := rfl
@[simp] theorem State.beginAct_errphase (act : BusAct) (s : State) : (s.beginAct act).errphase = s.errphase := rfl
@[simp] theorem State.beginAct_pending (act : BusAct) (s : State) : (s.beginAct act).pending = some { act := act, began := s.now } := rfl
@[simp] theorem State.beginAct_replies (act : BusAct) (s : State) : (s.beginAct act).replies = s.replies := rfl
@[simp] theorem State.beginAct_now (act : BusAct) (s : State) : (s.beginAct act).now = s.now := rfl
@[simp] theorem State.beginAct_draws (act : BusAct) (s : State) : (s.beginAct act).draws = s.draws := rfl
@[simp] theorem State.beginAct_trace (act : BusAct) (s : State) : (s.beginAct act).trace = s.trace := rfl
@[simp] theorem State.beginAct_host (act : BusAct) (s : State) : (s.beginAct act).host = s.host := rfl
@[simp] theorem State.beginAct_results (act : BusAct) (s : State) : (s.beginAct act).results = s.results := rfl

@[simp] theorem State.endAct_crc (p : Pending) (r : Option BusAnswer) (s : State) : (s.endAct p r).crc = s.crc := rfl
@[simp] theorem State.endAct_errcnt (p : Pending) (r : Option BusAnswer) (s : State) : (s.endAct p r).errcnt = s.errcnt := rfl
@[simp] theorem State.endAct_seq (p : Pending) (r : Option BusAnswer) (s : State) : (s.endAct p r).seq = s.seq := rfl
@[simp] theorem State.endAct_opened (p : Pending) (r : Option BusAnswer) (s : State) : (s.endAct p r).opened = s.opened := rfl
@[simp] theorem State.endAct_devaddr (p : Pending) (r : Option BusAnswer) (s : State) : (s.endAct p r).devaddr = s.devaddr := rfl
@[simp] theorem State.endAct_start (p : Pending) (r : Option BusAnswer) (s : State) : (s.endAct p r).start = s.start := rfl
@[simp] theorem State.endAct_count (p : Pending) (r : Option BusAnswer) (s : State) : (s.endAct p r).count = s.count := rfl
@[simp] theorem State.endAct_rxbuf (p : Pending) (r : Option BusAnswer) (s : State) : (s.endAct p r).rxbuf = s.rxbuf := rfl
@[simp] theorem State.endAct_rxlen (p : Pending) (r : Option BusAnswer) (s : State) : (s.endAct p r).rxlen = s.rxlen := rfl
@[simp] theorem State.endAct_pvalid (p : Pending) (r : Option BusAnswer) (s : State) : (s.endAct p r).pvalid = s.pvalid := rfl
@[simp] theorem State.endAct_hum (p : Pending) (r : Option BusAnswer) (s : State) : (s.endAct p r).hum = s.hum := rfl
@[simp] theorem State.endAct_hvalid (p : Pending) (r : Option BusAnswer) (s : State) : (s.endAct p r).hvalid = s.hvalid := rfl
@[simp] theorem State.endAct_tneg (p : Pending) (r : Option BusAnswer) (s : State) : (s.endAct p r).tneg = s.tneg := rfl
@[simp] theorem State.endAct_tmag (p : Pending) (r : Option BusAnswer) (s : State) : (s.endAct p r).tmag = s.tmag := rfl
@[simp] theorem State.endAct_tvalid (p : Pending) (r : Option BusAnswer) (s : State) : (s.endAct p r).tvalid = s.tvalid := rfl
@[simp] theorem State.endAct_busy (p : Pending) (r : Option BusAnswer) (s : State) : (s.endAct p r).busy = s.busy := rfl
@[simp] theorem State.endAct_lasterr (p : Pending) (r : Option BusAnswer) (s : State) : (s.endAct p r).lasterr = s.lasterr := rfl
@[simp] theorem State.endAct_errphase (p : Pending) (r : Option BusAnswer) (s : State) : (s.endAct p r).errphase = s.errphase := rfl
@[simp] theorem State.endAct_pending (p : Pending) (r : Option BusAnswer) (s : State) : (s.endAct p r).pending = none := rfl
@[simp] theorem State.endAct_replies (p : Pending) (r : Option BusAnswer) (s : State) : (s.endAct p r).replies = s.replies := rfl
@[simp] theorem State.endAct_now (p : Pending) (r : Option BusAnswer) (s : State) : (s.endAct p r).now = s.now := rfl
@[simp] theorem State.endAct_draws (p : Pending) (r : Option BusAnswer) (s : State) : (s.endAct p r).draws = s.draws := rfl
@[simp] theorem State.endAct_trace (p : Pending) (r : Option BusAnswer) (s : State) : (s.endAct p r).trace = s.trace ++ [{ act := p.act, answer := r, began := p.began, ended := s.now, finished := true }] := rfl
@[simp] theorem State.endAct_host (p : Pending) (r : Option BusAnswer) (s : State) : (s.endAct p r).host = s.host := rfl
@[simp] theorem State.endAct_results (p : Pending) (r : Option BusAnswer) (s : State) : (s.endAct p r).results = s.results := rfl

@[simp] theorem State.raise_crc (f : CmdFault) (s : State) : (s.raise f).crc = s.crc := rfl
@[simp] theorem State.raise_errcnt (f : CmdFault) (s : State) : (s.raise f).errcnt = s.errcnt := rfl
@[simp] theorem State.raise_seq (f : CmdFault) (s : State) : (s.raise f).seq = s.seq := rfl
@[simp] theorem State.raise_opened (f : CmdFault) (s : State) : (s.raise f).opened = s.opened := rfl
@[simp] theorem State.raise_devaddr (f : CmdFault) (s : State) : (s.raise f).devaddr = s.devaddr := rfl
@[simp] theorem State.raise_start (f : CmdFault) (s : State) : (s.raise f).start = s.start := rfl
@[simp] theorem State.raise_count (f : CmdFault) (s : State) : (s.raise f).count = s.count := rfl
@[simp] theorem State.raise_rxbuf (f : CmdFault) (s : State) : (s.raise f).rxbuf = s.rxbuf := rfl
@[simp] theorem State.raise_rxlen (f : CmdFault) (s : State) : (s.raise f).rxlen = s.rxlen := rfl
@[simp] theorem State.raise_pvalid (f : CmdFault) (s : State) : (s.raise f).pvalid = s.pvalid := rfl
@[simp] theorem State.raise_hum (f : CmdFault) (s : State) : (s.raise f).hum = s.hum := rfl
@[simp] theorem State.raise_hvalid (f : CmdFault) (s : State) : (s.raise f).hvalid = s.hvalid := rfl
@[simp] theorem State.raise_tneg (f : CmdFault) (s : State) : (s.raise f).tneg = s.tneg := rfl
@[simp] theorem State.raise_tmag (f : CmdFault) (s : State) : (s.raise f).tmag = s.tmag := rfl
@[simp] theorem State.raise_tvalid (f : CmdFault) (s : State) : (s.raise f).tvalid = s.tvalid := rfl
@[simp] theorem State.raise_busy (f : CmdFault) (s : State) : (s.raise f).busy = false := rfl
@[simp] theorem State.raise_lasterr (f : CmdFault) (s : State) : (s.raise f).lasterr = f.code := rfl
@[simp] theorem State.raise_errphase (f : CmdFault) (s : State) : (s.raise f).errphase = f.phase := rfl
@[simp] theorem State.raise_pending (f : CmdFault) (s : State) : (s.raise f).pending = s.pending := rfl
@[simp] theorem State.raise_replies (f : CmdFault) (s : State) : (s.raise f).replies = s.replies := rfl
@[simp] theorem State.raise_now (f : CmdFault) (s : State) : (s.raise f).now = s.now := rfl
@[simp] theorem State.raise_draws (f : CmdFault) (s : State) : (s.raise f).draws = s.draws := rfl
@[simp] theorem State.raise_trace (f : CmdFault) (s : State) : (s.raise f).trace = s.trace := rfl
@[simp] theorem State.raise_host (f : CmdFault) (s : State) : (s.raise f).host = s.host := rfl
@[simp] theorem State.raise_results (f : CmdFault) (s : State) : (s.raise f).results = s.results := rfl

@[simp] theorem State.completeOk_crc (s : State) : s.completeOk.crc = s.crc := rfl
@[simp] theorem State.completeOk_errcnt (s : State) : s.completeOk.errcnt = s.errcnt := rfl
@[simp] theorem State.completeOk_seq (s : State) : s.completeOk.seq = s.seq := rfl
@[simp] theorem State.completeOk_opened (s : State) : s.completeOk.opened = s.opened := rfl
@[simp] theorem State.completeOk_devaddr (s : State) : s.completeOk.devaddr = s.devaddr := rfl
@[simp] theorem State.completeOk_start (s : State) : s.completeOk.start = s.start := rfl
@[simp] theorem State.completeOk_count (s : State) : s.completeOk.count = s.count := rfl
@[simp] theorem State.completeOk_rxbuf (s : State) : s.completeOk.rxbuf = s.rxbuf := rfl
@[simp] theorem State.completeOk_rxlen (s : State) : s.completeOk.rxlen = s.rxlen := rfl
@[simp] theorem State.completeOk_pvalid (s : State) : s.completeOk.pvalid = s.pvalid := rfl
@[simp] theorem State.completeOk_hum (s : State) : s.completeOk.hum = s.hum := rfl
@[simp] theorem State.completeOk_hvalid (s : State) : s.completeOk.hvalid = s.hvalid := rfl
@[simp] theorem State.completeOk_tneg (s : State) : s.completeOk.tneg = s.tneg := rfl
@[simp] theorem State.completeOk_tmag (s : State) : s.completeOk.tmag = s.tmag := rfl
@[simp] theorem State.completeOk_tvalid (s : State) : s.completeOk.tvalid = s.tvalid := rfl
@[simp] theorem State.completeOk_busy (s : State) : s.completeOk.busy = false := rfl
@[simp] theorem State.completeOk_lasterr (s : State) : s.completeOk.lasterr = 0#8 := rfl
@[simp] theorem State.completeOk_errphase (s : State) : s.completeOk.errphase = 0#4 := rfl
@[simp] theorem State.completeOk_pending (s : State) : s.completeOk.pending = s.pending := rfl
@[simp] theorem State.completeOk_replies (s : State) : s.completeOk.replies = s.replies := rfl
@[simp] theorem State.completeOk_now (s : State) : s.completeOk.now = s.now := rfl
@[simp] theorem State.completeOk_draws (s : State) : s.completeOk.draws = s.draws := rfl
@[simp] theorem State.completeOk_trace (s : State) : s.completeOk.trace = s.trace := rfl
@[simp] theorem State.completeOk_host (s : State) : s.completeOk.host = s.host := rfl
@[simp] theorem State.completeOk_results (s : State) : s.completeOk.results = s.results := rfl

@[simp] theorem State.settle_crc (s : State) : s.settle.crc = s.crc := rfl
@[simp] theorem State.settle_errcnt (s : State) : s.settle.errcnt = s.errcnt := rfl
@[simp] theorem State.settle_seq (s : State) : s.settle.seq = restSeq s.errcnt := rfl
@[simp] theorem State.settle_opened (s : State) : s.settle.opened = s.opened := rfl
@[simp] theorem State.settle_devaddr (s : State) : s.settle.devaddr = s.devaddr := rfl
@[simp] theorem State.settle_start (s : State) : s.settle.start = s.start := rfl
@[simp] theorem State.settle_count (s : State) : s.settle.count = s.count := rfl
@[simp] theorem State.settle_rxbuf (s : State) : s.settle.rxbuf = s.rxbuf := rfl
@[simp] theorem State.settle_rxlen (s : State) : s.settle.rxlen = s.rxlen := rfl
@[simp] theorem State.settle_pvalid (s : State) : s.settle.pvalid = s.pvalid := rfl
@[simp] theorem State.settle_hum (s : State) : s.settle.hum = s.hum := rfl
@[simp] theorem State.settle_hvalid (s : State) : s.settle.hvalid = s.hvalid := rfl
@[simp] theorem State.settle_tneg (s : State) : s.settle.tneg = s.tneg := rfl
@[simp] theorem State.settle_tmag (s : State) : s.settle.tmag = s.tmag := rfl
@[simp] theorem State.settle_tvalid (s : State) : s.settle.tvalid = s.tvalid := rfl
@[simp] theorem State.settle_busy (s : State) : s.settle.busy = s.busy := rfl
@[simp] theorem State.settle_lasterr (s : State) : s.settle.lasterr = s.lasterr := rfl
@[simp] theorem State.settle_errphase (s : State) : s.settle.errphase = s.errphase := rfl
@[simp] theorem State.settle_pending (s : State) : s.settle.pending = s.pending := rfl
@[simp] theorem State.settle_replies (s : State) : s.settle.replies = s.replies := rfl
@[simp] theorem State.settle_now (s : State) : s.settle.now = s.now := rfl
@[simp] theorem State.settle_draws (s : State) : s.settle.draws = s.draws := rfl
@[simp] theorem State.settle_trace (s : State) : s.settle.trace = s.trace := rfl
@[simp] theorem State.settle_host (s : State) : s.settle.host = s.host := rfl
@[simp] theorem State.settle_results (s : State) : s.settle.results = s.results := rfl

end Sys2Proof.Machine
end

