-- ==== Sys2Proof/Laws/Memory.lean ====
section
/-! SUPPORT. The receive buffer: reading after writing, and every operation keeps the canonical form. -/

namespace Sys2Proof.Machine

theorem Memory.read_cons (k : Nat) (v : Byte) (m : Memory) (a : Nat) :
    Memory.read ((k, v) :: m) a = if k = a then v else Memory.read m a := rfl

/-- An address below every listed one reads as unlisted. -/
theorem Memory.read_below (m : Memory) (a : Nat) (h : ∀ c ∈ m, a < c.1) : Memory.read m a = Memory.unlisted := by
  induction m with
  | nil => rfl
  | cons c m ih =>
    obtain ⟨k, v⟩ := c
    have hk : a < k := h (k, v) (by simp)
    rw [Memory.read_cons, if_neg (by omega), ih (fun c hc => h c (by simp [hc]))]

theorem Memory.read_write_self (m : Memory) (a : Nat) (b : Byte) (hm : m.Pairwise (fun c d => c.1 < d.1)) :
    Memory.read (Memory.write m a b) a = b := by
  induction m with
  | nil =>
    by_cases hb : b = Memory.unlisted
    · simp [Memory.write, Memory.read, hb]
    · simp [Memory.write, Memory.read, hb]
  | cons c m ih =>
    obtain ⟨k, v⟩ := c
    have hlow : ∀ c ∈ m, k < c.1 := (List.pairwise_cons.mp hm).1
    have htail := (List.pairwise_cons.mp hm).2
    simp only [Memory.write]
    split
    · rename_i hak
      split
      · rename_i hb
        subst hb
        refine Memory.read_below _ a ?_
        intro c hc
        rcases List.mem_cons.mp hc with h | h
        · simp [h, hak]
        · exact Nat.lt_trans hak (hlow c h)
      · simp [Memory.read_cons]
    · split
      · rename_i hak
        subst hak
        split
        · rename_i hb
          subst hb
          exact Memory.read_below _ _ hlow
        · simp [Memory.read_cons]
      · rename_i h1 h2
        rw [Memory.read_cons, if_neg (by omega)]
        exact ih htail

theorem Memory.read_write_other (m : Memory) (a a' : Nat) (b : Byte) (h : a' ≠ a) :
    Memory.read (Memory.write m a b) a' = Memory.read m a' := by
  induction m with
  | nil =>
    simp only [Memory.write]
    split
    · rfl
    · simp [Memory.read_cons, Ne.symm h]
  | cons c m ih =>
    obtain ⟨k, v⟩ := c
    simp only [Memory.write]
    split
    · split
      · rfl
      · simp [Memory.read_cons, Ne.symm h]
    · split
      · rename_i hak
        subst hak
        split
        · simp [Memory.read_cons, Ne.symm h]
        · simp [Memory.read_cons, Ne.symm h]
      · simp only [Memory.read_cons, ih]

/-- The addresses listed after a write are those listed before, and the written one. -/
theorem Memory.mem_write (m : Memory) (a : Nat) (b : Byte) (c : Host.Cell) (h : c ∈ Memory.write m a b) :
    c ∈ m ∨ (c = (a, b) ∧ b ≠ Memory.unlisted) := by
  induction m with
  | nil =>
    simp only [Memory.write] at h
    split at h
    · simp at h
    · rename_i hb
      exact .inr ⟨by simpa using h, hb⟩
  | cons d m ih =>
    obtain ⟨k, v⟩ := d
    simp only [Memory.write] at h
    split at h
    · split at h
      · exact .inl h
      · rename_i hb
        rcases List.mem_cons.mp h with h | h
        · exact .inr ⟨h, hb⟩
        · exact .inl h
    · split at h
      · split at h
        · exact .inl (by simp [h])
        · rename_i hb
          rcases List.mem_cons.mp h with h | h
          · exact .inr ⟨h, hb⟩
          · exact .inl (by simp [h])
      · rcases List.mem_cons.mp h with h | h
        · exact .inl (by simp [h])
        · rcases ih h with h | h
          · exact .inl (by simp [h])
          · exact .inr h

theorem Memory.wf_nil : Memory.wf [] := by simp [Memory.wf]

theorem Memory.wf_cons {c : Host.Cell} {m : Memory} (h : Memory.wf (c :: m)) : Memory.wf m :=
  ⟨(List.pairwise_cons.mp h.1).2, fun d hd => h.2 d (by simp [hd])⟩

/-- Writing keeps the canonical form. -/
theorem Memory.wf_write (m : Memory) (a : Nat) (b : Byte) (hm : Memory.wf m) (ha : a < Config.rxbufBytes) :
    Memory.wf (Memory.write m a b) := by
  refine ⟨?_, ?_⟩
  · induction m with
    | nil =>
      simp only [Memory.write]
      split <;> simp
    | cons c m ih =>
      obtain ⟨k, v⟩ := c
      have hlow : ∀ c ∈ m, k < c.1 := (List.pairwise_cons.mp hm.1).1
      have htail := (List.pairwise_cons.mp hm.1).2
      simp only [Memory.write]
      split
      · rename_i hak
        split
        · exact hm.1
        · refine List.pairwise_cons.mpr ⟨?_, hm.1⟩
          intro c hc
          rcases List.mem_cons.mp hc with h | h
          · simp [h, hak]
          · exact Nat.lt_trans hak (hlow c h)
      · split
        · rename_i hak
          subst hak
          split
          · exact htail
          · exact List.pairwise_cons.mpr ⟨hlow, htail⟩
        · rename_i h1 h2
          refine List.pairwise_cons.mpr ⟨?_, ih (Memory.wf_cons hm)⟩
          intro c hc
          rcases Memory.mem_write m a b c hc with h | h
          · exact hlow c h
          · simp only [h.1]; omega
  · intro c hc
    rcases Memory.mem_write m a b c hc with h | h
    · exact hm.2 c h
    · rw [h.1]; exact ⟨ha, h.2⟩

/-- Writing a run of bytes inside the buffer keeps the canonical form. -/
theorem Memory.wf_writeBytes (m : Memory) (a : Nat) (bs : List Byte) (hm : Memory.wf m)
    (ha : a + bs.length ≤ Config.rxbufBytes) : Memory.wf (Memory.writeBytes m a bs) := by
  induction bs generalizing a with
  | nil => exact hm
  | cons b bs ih =>
    simp only [List.length_cons] at ha
    exact Memory.wf_write _ a b (ih (a + 1) (by omega)) (by omega)

/-- Scrambling keeps the canonical form. -/
theorem Memory.wf_scramble (m : Memory) (junk : List Byte) (hm : Memory.wf m) : Memory.wf (Memory.scramble m junk) :=
  Memory.wf_writeBytes m 0 _ hm (by simp [List.length_take])

/-- A run of bytes written is what is read back, and every other address reads as before. -/
theorem Memory.read_writeBytes (m : Memory) (a : Nat) (bs : List Byte) (k : Nat) (hm : Memory.wf m)
    (ha : a + bs.length ≤ Config.rxbufBytes) :
    Memory.read (Memory.writeBytes m a bs) k =
      if a ≤ k ∧ k < a + bs.length then bs.getD (k - a) 0#8 else Memory.read m k := by
  induction bs generalizing a with
  | nil => simp [Memory.writeBytes]
  | cons b bs ih =>
    simp only [List.length_cons] at ha
    simp only [Memory.writeBytes, List.length_cons]
    by_cases hk : k = a
    · subst hk
      rw [Memory.read_write_self _ _ _ (Memory.wf_writeBytes m (k + 1) bs hm (by omega)).1]
      simp
    · rw [Memory.read_write_other _ _ _ _ hk, ih (a + 1) (by omega)]
      by_cases h : a + 1 ≤ k ∧ k < a + 1 + bs.length
      · rw [if_pos h, if_pos (by omega)]
        have : k - a = (k - (a + 1)) + 1 := by omega
        rw [this, List.getD_cons_succ]
      · rw [if_neg h, if_neg (by omega)]

theorem Memory.slice_length (m : Memory) (a n : Nat) : (Memory.slice m a n).length = n := by
  induction n generalizing a with
  | zero => rfl
  | succ n ih => simp [Memory.slice, ih]

theorem Memory.slice_getD (m : Memory) (a n k : Nat) (d : Byte) (h : k < n) :
    (Memory.slice m a n).getD k d = Memory.read m (a + k) := by
  induction n generalizing a k with
  | zero => omega
  | succ n ih =>
    cases k with
    | zero => simp [Memory.slice]
    | succ k =>
      simp only [Memory.slice, List.getD_cons_succ]
      rw [ih (a + 1) k (by omega)]
      congr 1; omega

/-- Two buffers that agree on a run have the same slice there. -/
theorem Memory.slice_congr (m m' : Memory) (a n : Nat) (h : ∀ k, a ≤ k → k < a + n → Memory.read m k = Memory.read m' k) :
    Memory.slice m a n = Memory.slice m' a n := by
  induction n generalizing a with
  | zero => rfl
  | succ n ih =>
    simp only [Memory.slice]
    rw [h a (by omega) (by omega), ih (a + 1) (fun k h1 h2 => h k (by omega) (by omega))]

/-- A slice at the start of a run of bytes just written is a prefix of the run. -/
theorem Memory.slice_writeBytes (m : Memory) (bs : List Byte) (n i : Nat) (hm : Memory.wf m)
    (hb : bs.length ≤ Config.rxbufBytes) (hn : i + n ≤ bs.length) :
    Memory.slice (Memory.writeBytes m 0 bs) i n = (bs.drop i).take n := by
  induction n generalizing i with
  | zero => simp [Memory.slice]
  | succ n ih =>
    have hlt : i < bs.length := by omega
    simp only [Memory.slice]
    rw [ih (i + 1) (by omega), Memory.read_writeBytes m 0 bs i hm (by omega), if_pos (by omega),
      List.drop_eq_getElem_cons hlt, List.take_succ_cons]
    simp [List.getD_eq_getElem?_getD, hlt]

end Sys2Proof.Machine
end

