-- ==== Sys2Proof/Laws/Sequencer.lean ====
section
/-! SUPPORT. What one move of the sequencer does, one lemma per stage (R141), what one whole attempt does, and running a
command. Later proofs cite these and do not unfold `tick`. -/

namespace Sys2Proof.Machine

/-! ### Running -/

@[simp] theorem runCommand_zero (s : State) : runCommand 0 s = s := rfl

theorem runCommand_rest (n : Nat) (s : State) (h : s.busy = false) : runCommand n s = s := by
  cases n <;> simp [runCommand, h]

theorem runCommand_succ (n : Nat) (s : State) (h : s.busy = true) : runCommand (n + 1) s = runCommand n (tick s) := by
  simp [runCommand, h]

theorem runCommand_add (m n : Nat) (s : State) : runCommand (m + n) s = runCommand n (runCommand m s) := by
  induction m generalizing s with
  | zero => simp
  | succ m ih =>
    cases h : s.busy with
    | false => rw [runCommand_rest _ s h, runCommand_rest _ s h, runCommand_rest _ s h]
    | true => rw [show m + 1 + n = (m + n) + 1 by omega, runCommand_succ _ s h, runCommand_succ _ s h, ih]

/-- No reset lands in the command: it makes all the moves it needs. -/
theorem movesAllowed_full (s : State) (h : resetNext s = false) : movesAllowed s = maxTicks := by
  unfold movesAllowed
  split
  · rename_i hh; simp [resetNext, hh] at h
  · rfl

theorem runOn_full (s : State) (h : resetNext s = false) : runOn s = runCommand maxTicks s := by
  rw [runOn, movesAllowed_full s h]

/-- What every move of a busy state keeps, a whole command keeps. -/
theorem runCommand_keeps (P : State → Prop) (step : ∀ s, s.busy = true → P s → P (tick s)) (n : Nat) (s : State) (h : P s) :
    P (runCommand n s) := by
  induction n generalizing s with
  | zero => exact h
  | succ n ih =>
    cases hb : s.busy with
    | false => rwa [runCommand_rest _ s hb]
    | true => rw [runCommand_succ _ s hb]; exact ih _ (step s hb h)

/-! ### One move, stage by stage -/

/-- The state once the transaction `p` has been answered `r`. -/
abbrev State.heard (s : State) (p : Pending) (r : BusReply) (rest : List BusReply) : State :=
  ({ s with replies := rest }.pass 0).endAct p (some (answerOf p.act r))

/-- No answer: the command stays where it is (R120). -/
theorem tick_unanswered (s : State) (p : Pending) (hp : s.pending = some p) (hw : ∀ us, p.act ≠ .wait us)
    (hc : p.act ≠ .close) (hr : s.replies = []) : tick s = s := by
  obtain ⟨act, t⟩ := p
  cases act <;> simp_all [tick, transact]

theorem tick_open (s : State) (addr : BitVec 7) (t : Nat) (r : BusReply) (rest : List BusReply)
    (hp : s.pending = some ⟨.opening addr, t⟩) (hr : s.replies = r :: rest) :
    tick s = openAnswered addr r.accepted (s.heard ⟨.opening addr, t⟩ r rest) := by
  unfold tick
  rw [hp]
  simp only [transact, hr, answered]

theorem sendAnswered_waking (r : BusReply) (s : State) (h : s.seq = .waking) :
    sendAnswered r s = s.beginAct (.wait Config.wakeMicros) := by
  unfold sendAnswered
  rw [h]

theorem sendAnswered_requesting (r : BusReply) (s : State) (h : s.seq = .requesting) :
    sendAnswered r s = requestAnswered r.accepted s := by
  unfold sendAnswered
  rw [h]

/-- R133: whatever the answer to the wake write, the wake wait begins. -/
theorem tick_wakeWrite (s : State) (bs : List Byte) (t : Nat) (r : BusReply) (rest : List BusReply)
    (hp : s.pending = some ⟨.send bs, t⟩) (hq : s.seq = .waking) (hr : s.replies = r :: rest) :
    tick s = (s.heard ⟨.send bs, t⟩ r rest).beginAct (.wait Config.wakeMicros) := by
  unfold tick
  rw [hp]
  simp only [transact, hr, answered]
  exact sendAnswered_waking r _ hq

/-- R133, R134: after the wake wait the request write begins. -/
theorem tick_wakeWait (s : State) (us t : Nat) (hp : s.pending = some ⟨.wait us, t⟩) (hq : s.seq = .waking) :
    tick s = startRequest ((s.pass us).endAct ⟨.wait us, t⟩ none) := by
  unfold tick
  rw [hp]
  simp only [waitElapsed, State.endAct_seq, State.pass_seq, hq]

theorem tick_request (s : State) (bs : List Byte) (t : Nat) (r : BusReply) (rest : List BusReply)
    (hp : s.pending = some ⟨.send bs, t⟩) (hq : s.seq = .requesting) (hr : s.replies = r :: rest) :
    tick s = requestAnswered r.accepted (s.heard ⟨.send bs, t⟩ r rest) := by
  unfold tick
  rw [hp]
  simp only [transact, hr, answered]
  exact sendAnswered_requesting r _ hq

/-- R135, R136: after the think time the receive begins. -/
theorem tick_thinkWait (s : State) (us t : Nat) (hp : s.pending = some ⟨.wait us, t⟩) (hq : s.seq = .awaitingResponse) :
    tick s = startReceive ((s.pass us).endAct ⟨.wait us, t⟩ none) := by
  unfold tick
  rw [hp]
  simp only [waitElapsed, State.endAct_seq, State.pass_seq, hq]

theorem tick_receive (s : State) (n t : Nat) (r : BusReply) (rest : List BusReply)
    (hp : s.pending = some ⟨.recv n, t⟩) (hr : s.replies = r :: rest) :
    tick s = receiveAnswered n r (s.heard ⟨.recv n, t⟩ r rest) := by
  unfold tick
  rw [hp]
  simp only [transact, hr, answered]

/-- R118: `BusClose` ends with `Ok`. -/
theorem tick_close (s : State) (t : Nat) (hp : s.pending = some ⟨.close, t⟩) :
    tick s = closeAnswered ((s.pass 0).endAct ⟨.close, t⟩ (some .ok)) := by
  unfold tick
  rw [hp]

theorem tick_verify (s : State) (hp : s.pending = none) (hq : s.seq = .verifying) : tick s = verify s := by
  unfold tick
  rw [hp]
  simp only [hq, if_true]

theorem received_length {n : Nat} {r : BusReply} {bytes : List Byte} (h : r.received n = some bytes) : bytes.length = n := by
  cases r with
  | ok bs =>
    simp only [BusReply.received] at h
    split at h
    · cases h
    · cases h; simp; omega
  | fail junk len => cases h

/-! ### One attempt -/

/-- A state that differs from `s` only in its clock, its trace and its draws, the trace grown by events whose untimed forms are
`es`, the clock by at least `us`. -/
structure Later (s : State) (es : List BusEvent) (us : Nat) (n d : Nat) (tr : List BusEvent) : Prop where
  trace : tr.map BusEvent.untimed = s.trace.map BusEvent.untimed ++ es
  clock : s.now + us ≤ n

/-- The wake write and the wake wait (R133): two moves, then the request write has begun. -/
theorem attempt_wakes (s : State) (w : BusReply) (rest : List BusReply) (hb : s.busy = true) (hr : s.replies = w :: rest)
    (n : Nat) :
    ∃ now draws trace, Later s
        [event (.send wakeFrame) (some (if w.accepted then .ok else .fail)), event (.wait Config.wakeMicros) none]
        Config.wakeMicros now draws trace
      ∧ runCommand (n + 2) (startAttempt s) = runCommand n
          { s with
            replies := rest, seq := .requesting, now := now, draws := draws, trace := trace
            pending := some { act := .send (requestFrame s.start s.count), began := now } } := by
  let T := startRequest (((((startAttempt s).heard ⟨.send wakeFrame, s.now⟩ w rest).beginAct (.wait Config.wakeMicros)).pass
    Config.wakeMicros).endAct ⟨.wait Config.wakeMicros, ((startAttempt s).heard ⟨.send wakeFrame, s.now⟩ w rest).now⟩ none)
  refine ⟨T.now, T.draws, T.trace, ?_, ?_⟩
  rotate_left
  · rw [runCommand_succ _ _ (by exact hb), tick_wakeWrite (startAttempt s) wakeFrame s.now w rest rfl rfl hr,
      runCommand_succ _ _ (by exact hb), tick_wakeWait _ Config.wakeMicros _ rfl rfl]
    rfl
  · constructor
    · simp [T, startRequest, BusEvent.untimed, event, answerOf, startAttempt]
    · simp [T, startRequest, startAttempt]; omega

/-- A request answered `Ok` and the think time (R134, R135): two moves, then the receive has begun. -/
theorem attempt_asks (s : State) (q : BusReply) (rest : List BusReply) (bs : List Byte) (t : Nat) (hb : s.busy = true)
    (hs : s.seq = .requesting) (hp : s.pending = some { act := .send bs, began := t }) (hr : s.replies = q :: rest)
    (hq : q.accepted = true) (n : Nat) :
    ∃ now draws trace, Later s [event (.send bs) (some .ok), event (.wait Config.thinkMicros) none]
        Config.thinkMicros now draws trace
      ∧ runCommand (n + 2) s = runCommand n
          { s with
            replies := rest, seq := .awaitingResponse, now := now, draws := draws, trace := trace
            pending := some { act := .recv (responseLen s.count), began := now } } := by
  let T := startReceive (((startThink (s.heard ⟨.send bs, t⟩ q rest)).pass
    Config.thinkMicros).endAct ⟨.wait Config.thinkMicros, (s.heard ⟨.send bs, t⟩ q rest).now⟩ none)
  refine ⟨T.now, T.draws, T.trace, ?_, ?_⟩
  rotate_left
  · rw [runCommand_succ _ _ hb, tick_request _ bs t q rest hp hs hr]
    simp only [requestAnswered, hq, if_true]
    rw [runCommand_succ _ _ (by exact hb), tick_thinkWait _ Config.thinkMicros _ rfl rfl]
    rfl
  · constructor
    · simp [T, startReceive, BusEvent.untimed, event, answerOf, hq, startThink]
    · simp [T, startReceive, startThink]; omega

/-- A request answered `Fail` (R134): one move, then phase 2. -/
theorem attempt_requestFails (s : State) (q : BusReply) (rest : List BusReply) (bs : List Byte) (t : Nat) (hb : s.busy = true)
    (hs : s.seq = .requesting) (hp : s.pending = some { act := .send bs, began := t }) (hr : s.replies = q :: rest)
    (hq : q.accepted = false) (n : Nat) :
    ∃ now draws trace, Later s [event (.send bs) (some .fail)] 0 now draws trace
      ∧ runCommand (n + 1) s =
          { s with
            replies := rest, seq := restSeq s.errcnt, now := now, draws := draws, trace := trace
            pending := none, lasterr := 1#8, errphase := 2#4, busy := false } := by
  let T := s.heard ⟨.send bs, t⟩ q rest
  refine ⟨T.now, T.draws, T.trace, ?_, ?_⟩
  rotate_left
  · rw [runCommand_succ _ _ hb, tick_request _ bs t q rest hp hs hr, requestAnswered, hq,
      runCommand_rest _ _ (by simp)]
    rfl
  · constructor
    · simp [T, BusEvent.untimed, event, answerOf, hq]
    · simp [T]

/-- A receive that fails (R136): one move, then phase 3; of `RXBUF`, `RXLEN` nothing is said. -/
theorem attempt_receiveFails (s : State) (d : BusReply) (rest : List BusReply) (m t : Nat) (hb : s.busy = true)
    (hp : s.pending = some { act := .recv m, began := t }) (hr : s.replies = d :: rest) (hd : d.received m = none) (n : Nat) :
    ∃ now draws trace rxbuf rxlen, Later s [event (.recv m) (some .fail)] 0 now draws trace
      ∧ (Memory.wf s.rxbuf → Memory.wf rxbuf)
      ∧ runCommand (n + 1) s =
          { s with
            replies := rest, seq := restSeq s.errcnt, now := now, draws := draws, trace := trace
            rxbuf := rxbuf, rxlen := rxlen, pending := none, lasterr := 1#8, errphase := 3#4, busy := false } := by
  let T := receiveAnswered m d (s.heard ⟨.recv m, t⟩ d rest)
  refine ⟨T.now, T.draws, T.trace, T.rxbuf, T.rxlen, ?_, ?_, ?_⟩
  rotate_left
  rotate_left
  · simp only [T]
    rw [runCommand_succ _ _ hb, tick_receive _ m t d rest hp hr, receiveAnswered, hd,
      runCommand_rest _ _ (by simp)]
    rfl
  · constructor
    · simp [T, receiveAnswered, BusEvent.untimed, event, answerOf, hd]
    · simp [T, receiveAnswered, hd]
  · intro h
    simp only [T, receiveAnswered, hd]
    exact Memory.wf_scramble _ _ h

/-- A receive of a whole frame (R136): one move, then the comparison is due. -/
theorem attempt_receives (s : State) (d : BusReply) (rest : List BusReply) (m t : Nat) (bytes : List Byte) (hb : s.busy = true)
    (hp : s.pending = some { act := .recv m, began := t }) (hr : s.replies = d :: rest) (hd : d.received m = some bytes)
    (n : Nat) :
    ∃ now draws trace, Later s [event (.recv m) (some (.data bytes))] 0 now draws trace
      ∧ runCommand (n + 1) s = runCommand n
          { s with
            replies := rest, seq := .verifying, now := now, draws := draws, trace := trace
            rxbuf := Memory.writeBytes s.rxbuf 0 bytes, rxlen := BitVec.ofNat 9 m, pending := none } := by
  let T := s.heard ⟨.recv m, t⟩ d rest
  refine ⟨T.now, T.draws, T.trace, ?_, ?_⟩
  rotate_left
  · rw [runCommand_succ _ _ hb, tick_receive _ m t d rest hp hr]
    simp only [receiveAnswered, hd]
    rfl
  · constructor
    · simp [T, BusEvent.untimed, event, answerOf, hd]
    · simp [T]

/-- An attempt that receives a whole frame (R133 to R136): five moves, then the comparison is due. -/
theorem attempt_delivers (s : State) (x : Attempt) (bytes : List Byte) (rest : List BusReply) (hb : s.busy = true)
    (hr : s.replies = x.replies ++ rest) (hx : x.delivers s.count bytes) (n : Nat) :
    ∃ now draws trace, Later s
        [ event (.send wakeFrame) (some (if x.wake.accepted then .ok else .fail)), event (.wait Config.wakeMicros) none
        , event (.send (requestFrame s.start s.count)) (some .ok), event (.wait Config.thinkMicros) none
        , event (.recv (responseLen s.count)) (some (.data bytes)) ]
        (Config.wakeMicros + Config.thinkMicros) now draws trace
      ∧ runCommand (n + 5) (startAttempt s) = runCommand n
          { s with
            replies := rest, seq := .verifying, now := now, draws := draws, trace := trace
            rxbuf := Memory.writeBytes s.rxbuf 0 bytes, rxlen := BitVec.ofNat 9 (responseLen s.count), pending := none } := by
  obtain ⟨hq, hd⟩ := hx
  obtain ⟨n1, d1, t1, l1, h1⟩ := attempt_wakes s x.wake (x.request :: x.response :: rest) hb hr (n + 3)
  obtain ⟨n2, d2, t2, l2, h2⟩ := attempt_asks
    { s with
      replies := x.request :: x.response :: rest, seq := .requesting, now := n1, draws := d1, trace := t1
      pending := some { act := .send (requestFrame s.start s.count), began := n1 } }
    x.request (x.response :: rest) _ _ hb rfl rfl rfl hq (n + 1)
  obtain ⟨n3, d3, t3, l3, h3⟩ := attempt_receives
    { s with
      replies := x.response :: rest, seq := .awaitingResponse, now := n2, draws := d2, trace := t2
      pending := some { act := .recv (responseLen s.count), began := n2 } }
    x.response rest _ _ bytes hb rfl rfl hd n
  refine ⟨n3, d3, t3, ⟨?_, ?_⟩, ?_⟩
  · rw [l3.trace]
    have := l2.trace
    have := l1.trace
    simp_all
  · have := l1.clock
    have := l2.clock
    have := l3.clock
    simp only at *
    omega
  · rw [h1, h2, h3]

/-! ### The comparison -/

/-- R139. -/
theorem verify_match (s : State) (h : crc16 (checkedBytes s.rxbuf s.count) = rxCrc s.rxbuf s.count) :
    verify s = onMatch { s with crc := crc16 (checkedBytes s.rxbuf s.count) } := if_pos h

/-- R138, the counter exceeded. -/
theorem verify_exhausted (s : State) (h : crc16 (checkedBytes s.rxbuf s.count) ≠ rxCrc s.rxbuf s.count)
    (he : exhausted (satInc s.errcnt) = true) :
    verify s = State.raise .protocolExhausted
      { s with crc := crc16 (checkedBytes s.rxbuf s.count), errcnt := satInc s.errcnt, seq := .fatal } :=
  (if_neg h).trans (if_pos he)

/-- R138, a retry. -/
theorem verify_retry (s : State) (h : crc16 (checkedBytes s.rxbuf s.count) ≠ rxCrc s.rxbuf s.count)
    (he : exhausted (satInc s.errcnt) = false) :
    verify s = startAttempt { s with crc := crc16 (checkedBytes s.rxbuf s.count), errcnt := satInc s.errcnt } :=
  (if_neg h).trans (if_neg (by simpa using he))

/-- What the buffer holds after a whole frame is the frame (R136, R137). -/
theorem checkedBytes_frame (m : Memory) (count : Byte) (bytes : List Byte) (hm : Memory.wf m)
    (hl : bytes.length = responseLen count) :
    crc16 (checkedBytes (Memory.writeBytes m 0 bytes) count) = frameCrc count bytes := by
  have hc := count.isLt
  simp only [responseLen] at hl
  unfold checkedBytes frameCrc
  rw [Memory.slice_writeBytes m bytes _ 0 hm (by simp [Config.rxbufBytes]; omega) (by omega)]
  simp

theorem rxCrc_frame (m : Memory) (count : Byte) (bytes : List Byte) (hm : Memory.wf m)
    (hl : bytes.length = responseLen count) :
    rxCrc (Memory.writeBytes m 0 bytes) count
      = concat16 (bytes.getD (count.toNat + 3) 0#8) (bytes.getD (count.toNat + 2) 0#8) := by
  have hc := count.isLt
  simp only [responseLen] at hl
  unfold rxCrc
  rw [Memory.read_writeBytes m 0 bytes _ hm (by simp [Config.rxbufBytes]; omega),
    Memory.read_writeBytes m 0 bytes _ hm (by simp [Config.rxbufBytes]; omega), if_pos (by omega), if_pos (by omega)]
  simp

/-- The comparison in the buffer is the comparison of the frame just received. -/
theorem verify_frame (s : State) (m : Memory) (bytes : List Byte) (hm : Memory.wf m)
    (hs : s.rxbuf = Memory.writeBytes m 0 bytes) (hl : bytes.length = responseLen s.count) :
    verify s = if frameMatches s.count bytes then onMatch { s with crc := frameCrc s.count bytes }
      else onMismatch { s with crc := frameCrc s.count bytes } := by
  unfold verify
  rw [hs, checkedBytes_frame m _ bytes hm hl, rxCrc_frame m _ bytes hm hl]
  simp [frameMatches]

end Sys2Proof.Machine
end

