-- ==== Sys2Proof/Laws/Attempts.lean ====
section
/-! SUPPORT. What a whole attempt of `READ_REGS` does by its ending (R138, R139, R142), and a run of mismatching attempts below
the threshold. -/

namespace Sys2Proof.Machine

theorem exhausted_iff (e : Byte) : exhausted e = true ↔ 5 < e.toNat := by
  unfold exhausted Config.errThreshold
  exact decide_eq_true_iff

/-- R14 in numbers. -/
theorem satInc_toNat (v : Byte) : (satInc v).toNat = min 255 (v.toNat + 1) := by revert v; decide

theorem restSeq_eq (e : Byte) : restSeq e = if 5 < e.toNat then .fatal else .idle := by
  unfold restSeq
  by_cases h : 5 < e.toNat
  · rw [(exhausted_iff e).mpr h]; simp [h]
  · rw [if_neg (fun hx => h ((exhausted_iff e).mp hx)), if_neg h]

/-- A command that cannot move stays. -/
theorem runCommand_hung (n : Nat) (s : State) (h : tick s = s) : runCommand n s = s := by
  induction n with
  | zero => rfl
  | succ n ih =>
    cases hb : s.busy with
    | false => exact runCommand_rest _ _ hb
    | true => rw [runCommand_succ _ _ hb, h, ih]

/-- The events of an attempt that receives a whole frame. -/
abbrev attemptEvents (x : Attempt) (start count : Byte) (bytes : List Byte) : List BusEvent :=
  [ event (.send wakeFrame) (some (if x.wake.accepted then .ok else .fail)), event (.wait Config.wakeMicros) none
  , event (.send (requestFrame start count)) (some .ok), event (.wait Config.thinkMicros) none
  , event (.recv (responseLen count)) (some (.data bytes)) ]

/-- A mismatching attempt below the threshold: six moves, then the next attempt has begun (R138, R144). -/
theorem attempt_retries (s : State) (x : Attempt) (bytes : List Byte) (rest : List BusReply) (hb : s.busy = true)
    (hm : Memory.wf s.rxbuf) (hr : s.replies = x.replies ++ rest) (hx : x.delivers s.count bytes)
    (hf : frameMatches s.count bytes = false) (he : (satInc s.errcnt).toNat ≤ 5) (n : Nat) :
    ∃ now draws trace, Later s (attemptEvents x s.start s.count bytes)
        (Config.wakeMicros + Config.thinkMicros) now draws trace
      ∧ runCommand (n + 6) (startAttempt s) = runCommand n (startAttempt
          { s with
            replies := rest, seq := .verifying, now := now, draws := draws, trace := trace, errcnt := satInc s.errcnt
            crc := frameCrc s.count bytes
            rxbuf := Memory.writeBytes s.rxbuf 0 bytes, rxlen := BitVec.ofNat 9 (responseLen s.count), pending := none }) := by
  obtain ⟨n1, d1, t1, l1, h1⟩ := attempt_delivers s x bytes rest hb hr hx (n + 1)
  refine ⟨n1, d1, t1, l1, ?_⟩
  rw [h1, runCommand_succ _ _ (by exact hb), tick_verify _ rfl rfl,
    verify_frame _ s.rxbuf bytes hm rfl (by exact received_length hx.2)]
  simp only [hf, onMismatch, exhausted, Config.errThreshold]
  simp [show ¬ 5 < (satInc s.errcnt).toNat by omega]

/-- A mismatching attempt that takes the counter over the threshold: six moves, then `ProtocolExhausted` (R138). -/
theorem attempt_exhausts (s : State) (x : Attempt) (bytes : List Byte) (rest : List BusReply) (hb : s.busy = true)
    (hm : Memory.wf s.rxbuf) (hr : s.replies = x.replies ++ rest) (hx : x.delivers s.count bytes)
    (hf : frameMatches s.count bytes = false) (he : 5 < (satInc s.errcnt).toNat) (n : Nat) :
    ∃ now draws trace, Later s (attemptEvents x s.start s.count bytes)
        (Config.wakeMicros + Config.thinkMicros) now draws trace
      ∧ runCommand (n + 6) (startAttempt s) =
          { s with
            replies := rest, seq := .fatal, now := now, draws := draws, trace := trace, errcnt := satInc s.errcnt
            crc := frameCrc s.count bytes, lasterr := 2#8, errphase := 0#4, busy := false
            rxbuf := Memory.writeBytes s.rxbuf 0 bytes, rxlen := BitVec.ofNat 9 (responseLen s.count), pending := none } := by
  obtain ⟨n1, d1, t1, l1, h1⟩ := attempt_delivers s x bytes rest hb hr hx (n + 1)
  refine ⟨n1, d1, t1, l1, ?_⟩
  rw [h1, runCommand_succ _ _ (by exact hb), tick_verify _ rfl rfl,
    verify_frame _ s.rxbuf bytes hm rfl (by exact received_length hx.2)]
  simp only [hf, onMismatch, exhausted, Config.errThreshold]
  simp only [he, decide_true, if_true]
  rw [runCommand_rest _ _ rfl]
  rfl

/-- A matching attempt: six moves, then the command is complete (R139). -/
theorem attempt_matches (s : State) (x : Attempt) (bytes : List Byte) (rest : List BusReply) (hb : s.busy = true)
    (hm : Memory.wf s.rxbuf) (hr : s.replies = x.replies ++ rest) (hx : x.delivers s.count bytes)
    (hf : frameMatches s.count bytes = true) (n : Nat) :
    ∃ now draws trace, Later s (attemptEvents x s.start s.count bytes)
        (Config.wakeMicros + Config.thinkMicros) now draws trace
      ∧ runCommand (n + 6) (startAttempt s) =
          { s with
            replies := rest, seq := .idle, now := now, draws := draws, trace := trace, errcnt := 0#8
            crc := frameCrc s.count bytes, pvalid := true, lasterr := 0#8, errphase := 0#4, busy := false
            rxbuf := Memory.writeBytes s.rxbuf 0 bytes, rxlen := BitVec.ofNat 9 (responseLen s.count), pending := none } := by
  obtain ⟨n1, d1, t1, l1, h1⟩ := attempt_delivers s x bytes rest hb hr hx (n + 1)
  refine ⟨n1, d1, t1, l1, ?_⟩
  rw [h1, runCommand_succ _ _ (by exact hb), tick_verify _ rfl rfl,
    verify_frame _ s.rxbuf bytes hm rfl (by exact received_length hx.2)]
  simp only [hf, onMatch, if_true]
  rw [runCommand_rest _ _ rfl]
  rfl

theorem wakeWrites_untimed (tr : List BusEvent) : wakeWrites (tr.map BusEvent.untimed) = wakeWrites tr := by
  simp [wakeWrites, List.countP_map, Function.comp_def, BusEvent.untimed]

/-- An attempt makes one wake write. -/
theorem wakeWrites_attempt {s : State} {x : Attempt} {a b : Byte} {bytes : List Byte} {us n d : Nat} {tr : List BusEvent}
    (h : Later s (attemptEvents x a b bytes) us n d tr) : wakeWrites tr = wakeWrites s.trace + 1 := by
  rw [← wakeWrites_untimed, h.trace, ← wakeWrites_untimed s.trace]
  simp [wakeWrites, event, wakeFrame, requestFrame]

/-- The waits of one attempt and of `m` more add up. -/
theorem attempt_times {a b c m : Nat} (h : a + (Config.wakeMicros + Config.thinkMicros) ≤ b) (h' : b + 2650 * m ≤ c) :
    a + 2650 * (m + 1) ≤ c := by
  simp only [Config.wakeMicros, Config.thinkMicros] at h
  norm_num at h
  linarith

/-- Mismatching attempts that stay below the threshold, one after the other. -/
theorem many_retries (bad : List Attempt) : ∀ (s : State) (rest : List BusReply), s.busy = true → Memory.wf s.rxbuf →
    s.replies = bad.flatMap Attempt.replies ++ rest → (∀ x ∈ bad, x.mismatching s.count) →
    s.errcnt.toNat + bad.length ≤ 5 → ∀ n,
    ∃ now draws trace crc rxbuf rxlen errcnt pending seq,
      runCommand (n + 6 * bad.length) (startAttempt s) = runCommand n (startAttempt
          { s with
            replies := rest, now := now, draws := draws, trace := trace, crc := crc, rxbuf := rxbuf, rxlen := rxlen
            errcnt := errcnt, pending := pending, seq := seq })
      ∧ errcnt.toNat = s.errcnt.toNat + bad.length ∧ Memory.wf rxbuf ∧ wakeWrites trace = wakeWrites s.trace + bad.length
      ∧ (∀ k, s.count.toNat + 4 ≤ k → Memory.read rxbuf k = Memory.read s.rxbuf k)
      ∧ s.now + 2650 * bad.length ≤ now := by
  induction bad with
  | nil =>
    intro s rest hb hm hr hx he n
    refine ⟨s.now, s.draws, s.trace, s.crc, s.rxbuf, s.rxlen, s.errcnt, s.pending, s.seq, ?_, by simp, hm, by simp,
      fun _ _ => rfl, by simp⟩
    have : s = { s with replies := rest } := by
      have : s.replies = rest := by simpa using hr
      rw [← this]
    rw [List.length_nil, Nat.mul_zero, Nat.add_zero]
    conv => lhs; rw [this]
  | cons x bad ih =>
    intro s rest hb hm hr hx he n
    obtain ⟨bytes, hd, hf⟩ := hx x (by simp)
    simp only [List.length_cons] at he
    have hlen := received_length hd.2
    have hc := s.count.isLt
    have hl : bytes.length ≤ Config.rxbufBytes := by simp [responseLen, Config.rxbufBytes] at *; omega
    obtain ⟨n1, d1, t1, l1, h1⟩ := attempt_retries s x bytes (bad.flatMap Attempt.replies ++ rest) hb hm (by simpa using hr)
      hd hf (by rw [satInc_toNat]; omega) (n + 6 * bad.length)
    obtain ⟨n2, d2, t2, crc, rx, rl, e, p, q, h2, he2, hw2, hk2, hr2, hn2⟩ := ih
      { s with
        replies := bad.flatMap Attempt.replies ++ rest, seq := .verifying, now := n1, draws := d1, trace := t1
        errcnt := satInc s.errcnt, crc := frameCrc s.count bytes
        rxbuf := Memory.writeBytes s.rxbuf 0 bytes, rxlen := BitVec.ofNat 9 (responseLen s.count), pending := none }
      rest hb (Memory.wf_writeBytes _ _ _ hm (by simpa using hl)) rfl (fun y hy => hx y (by simp [hy]))
      (by dsimp only; rw [satInc_toNat]; omega) n
    refine ⟨n2, d2, t2, crc, rx, rl, e, p, q, ?_, ?_, hw2, ?_, ?_, ?_⟩
    · rw [show n + 6 * (x :: bad).length = n + 6 * bad.length + 6 by simp; omega, h1, h2]
    · rw [he2]; dsimp only; rw [satInc_toNat, List.length_cons]; omega
    · rw [hk2, wakeWrites_attempt l1]; simp; omega
    · intro k hk
      rw [hr2 k hk, Memory.read_writeBytes _ _ _ _ hm (by simpa using hl), if_neg]
      simp [responseLen] at hlen; omega
    · have h8 := l1.clock
      have h9 : n1 + 2650 * bad.length ≤ n2 := hn2
      rw [List.length_cons]
      exact attempt_times h8 h9

/-! ### One move of any command in progress -/

/-- What one move of a command in progress can be (R117, R118, R133 to R139, R141); `u` is the state once the transaction or the wait
has ended. -/
inductive Move (s : State) : State → Prop where
  | hung (p : Pending) : s.pending = some p → s.replies = [] → (∀ us, p.act ≠ .wait us) → p.act ≠ .close → Move s s
  | opened (addr : BitVec 7) (t : Nat) (r : BusReply) (rest : List BusReply) :
      s.pending = some ⟨.opening addr, t⟩ → s.replies = r :: rest → s.opened = false → s.seq = .idle ∨ s.seq = .fatal →
      Move s (openAnswered addr r.accepted (s.heard ⟨.opening addr, t⟩ r rest))
  | closed (t : Nat) :
      s.pending = some ⟨.close, t⟩ → s.opened = true → s.seq = .idle ∨ s.seq = .fatal →
      Move s (closeAnswered ((s.pass 0).endAct ⟨.close, t⟩ (some .ok)))
  | woke (t : Nat) (r : BusReply) (rest : List BusReply) :
      s.pending = some ⟨.send wakeFrame, t⟩ → s.replies = r :: rest → s.opened = true → s.seq = .waking →
      Move s ((s.heard ⟨.send wakeFrame, t⟩ r rest).beginAct (.wait Config.wakeMicros))
  | ready (t : Nat) :
      s.pending = some ⟨.wait Config.wakeMicros, t⟩ → s.opened = true → s.seq = .waking →
      Move s (startRequest ((s.pass Config.wakeMicros).endAct ⟨.wait Config.wakeMicros, t⟩ none))
  | asked (t : Nat) (r : BusReply) (rest : List BusReply) :
      s.pending = some ⟨.send (requestFrame s.start s.count), t⟩ → s.replies = r :: rest → s.opened = true →
      s.seq = .requesting →
      Move s (requestAnswered r.accepted (s.heard ⟨.send (requestFrame s.start s.count), t⟩ r rest))
  | thought (t : Nat) :
      s.pending = some ⟨.wait Config.thinkMicros, t⟩ → s.opened = true → s.seq = .awaitingResponse →
      Move s (startReceive ((s.pass Config.thinkMicros).endAct ⟨.wait Config.thinkMicros, t⟩ none))
  | received (t : Nat) (r : BusReply) (rest : List BusReply) :
      s.pending = some ⟨.recv (responseLen s.count), t⟩ → s.replies = r :: rest → s.opened = true →
      s.seq = .awaitingResponse →
      Move s (receiveAnswered (responseLen s.count) r (s.heard ⟨.recv (responseLen s.count), t⟩ r rest))
  | verified : s.pending = none → s.opened = true → s.seq = .verifying → Move s (verify s)

/-- One move of a command in progress is one of these. -/
theorem tick_move (s : State) (h : inProgress s = true) : Move s (tick s) := by
  unfold inProgress at h
  split at h
  · rename_i addr t hp hs
    cases hr : s.replies with
    | nil => rw [tick_unanswered s _ hp (by simp) (by simp) hr]; exact .hung _ hp hr (by simp) (by simp)
    | cons r rest => rw [tick_open s addr t r rest hp hr]; exact .opened addr t r rest hp hr (by simpa using h) (.inl hs)
  · rename_i addr t hp hs
    cases hr : s.replies with
    | nil => rw [tick_unanswered s _ hp (by simp) (by simp) hr]; exact .hung _ hp hr (by simp) (by simp)
    | cons r rest => rw [tick_open s addr t r rest hp hr]; exact .opened addr t r rest hp hr (by simpa using h) (.inr hs)
  · rename_i t hp hs
    rw [tick_close s t hp]
    exact .closed t hp h (.inl hs)
  · rename_i t hp hs
    rw [tick_close s t hp]
    exact .closed t hp h (.inr hs)
  · rename_i bs t hp hs
    obtain ⟨ho, hb⟩ : s.opened = true ∧ bs = wakeFrame := by simpa using h
    subst hb
    cases hr : s.replies with
    | nil => rw [tick_unanswered s _ hp (by simp) (by simp) hr]; exact .hung _ hp hr (by simp) (by simp)
    | cons r rest => rw [tick_wakeWrite s _ t r rest hp hs hr]; exact .woke t r rest hp hr ho hs
  · rename_i us t hp hs
    obtain ⟨ho, hb⟩ : s.opened = true ∧ us = Config.wakeMicros := by simpa using h
    subst hb
    rw [tick_wakeWait s _ t hp hs]
    exact .ready t hp ho hs
  · rename_i bs t hp hs
    obtain ⟨ho, hb⟩ : s.opened = true ∧ bs = requestFrame s.start s.count := by simpa using h
    subst hb
    cases hr : s.replies with
    | nil => rw [tick_unanswered s _ hp (by simp) (by simp) hr]; exact .hung _ hp hr (by simp) (by simp)
    | cons r rest => rw [tick_request s _ t r rest hp hs hr]; exact .asked t r rest hp hr ho hs
  · rename_i us t hp hs
    obtain ⟨ho, hb⟩ : s.opened = true ∧ us = Config.thinkMicros := by simpa using h
    subst hb
    rw [tick_thinkWait s _ t hp hs]
    exact .thought t hp ho hs
  · rename_i n t hp hs
    obtain ⟨ho, hb⟩ : s.opened = true ∧ n = responseLen s.count := by simpa using h
    subst hb
    cases hr : s.replies with
    | nil => rw [tick_unanswered s _ hp (by simp) (by simp) hr]; exact .hung _ hp hr (by simp) (by simp)
    | cons r rest => rw [tick_receive s _ t r rest hp hr]; exact .received t r rest hp hr ho hs
  · rename_i hp hs
    rw [tick_verify s hp hs]
    exact .verified hp h hs
  · cases h

/-- What a move leaves busy is again a command in progress. -/
theorem move_progress {s t : State} (h : Move s t) (hp : inProgress s = true) (hb : t.busy = true) : inProgress t = true := by
  cases h with
  | hung => exact hp
  | opened addr t r rest h1 h2 h3 h4 => unfold openAnswered at hb; split at hb <;> simp at hb
  | closed t h1 h2 h3 => simp [closeAnswered] at hb
  | woke t r rest h1 h2 h3 h4 => simp [inProgress, State.beginAct, h3, h4]
  | ready t h1 h2 h3 => simp [inProgress, startRequest, State.beginAct, h2]
  | asked t r rest h1 h2 h3 h4 =>
    cases hr : r.accepted
    · simp [requestAnswered, hr] at hb
    · simp [requestAnswered, inProgress, startThink, State.beginAct, h3]
  | thought t h1 h2 h3 => simp [inProgress, startReceive, State.beginAct, h2, h3]
  | received t r rest h1 h2 h3 h4 =>
    unfold receiveAnswered at hb ⊢
    split at hb
    · simp [inProgress, h3, State.endAct]
    · simp at hb
  | verified h1 h2 h3 =>
    unfold verify at hb ⊢
    split at hb
    · simp [onMatch] at hb
    · rename_i h
      rw [if_neg h]
      unfold onMismatch at hb ⊢
      split at hb
      · simp at hb
      · rename_i h'
        rw [if_neg h']
        simp [inProgress, startAttempt, State.beginAct, h2]

/-- The first move of an attempt can be made. -/
theorem startAttempt_progress (s : State) (h : s.opened = true) : inProgress (startAttempt s) = true := by
  simp [inProgress, startAttempt, State.beginAct, h]

/-- A whole command keeps what every move of a command in progress keeps, and where it stops busy it is still in progress. -/
theorem runCommand_moves (P : State → Prop)
    (hmove : ∀ s t, s.busy = true → inProgress s = true → P s → Move s t → P t) (n : Nat) (s : State)
    (hp : s.busy = true → inProgress s = true) (h : P s) :
    P (runCommand n s) ∧ ((runCommand n s).busy = true → inProgress (runCommand n s) = true) :=
  runCommand_keeps (fun s => P s ∧ (s.busy = true → inProgress s = true))
    (fun s hb h => ⟨hmove s _ hb (h.2 hb) h.1 (tick_move s (h.2 hb)), move_progress (tick_move s (h.2 hb)) (h.2 hb)⟩) n s ⟨h, hp⟩

end Sys2Proof.Machine
end

