-- ==== Sys2Proof/Laws/Encoding.lean ====
section
/-! SUPPORT. The fields of a command word and the word of four fields undo each other (R60). Proofs about decoding cite these and
do not unfold a field. -/

namespace Sys2Proof

theorem toNat_append_byte {n : Nat} (x : BitVec n) (y : Byte) : (x ++ y).toNat = x.toNat * 256 + y.toNat := by
  rw [BitVec.toNat_append, ← Nat.shiftLeft_add_eq_or_of_lt y.isLt, Nat.shiftLeft_eq]

theorem packWord_toNat (a b c d : Byte) :
    (packWord a b c d).toNat = a.toNat * 2 ^ 24 + b.toNat * 2 ^ 16 + c.toNat * 2 ^ 8 + d.toNat := by
  have h : (packWord a b c d).toNat = (a ++ b ++ c ++ d : BitVec (8 + 8 + 8 + 8)).toNat := rfl
  rw [h, toNat_append_byte, toNat_append_byte, toNat_append_byte]
  omega

theorem fieldOp_toNat (w : Word) : (fieldOp w).toNat = w.toNat / 2 ^ 24 % 256 := by
  simp [fieldOp, BitVec.extractLsb'_toNat, Nat.shiftRight_eq_div_pow]
theorem fieldA_toNat (w : Word) : (fieldA w).toNat = w.toNat / 2 ^ 16 % 256 := by
  simp [fieldA, BitVec.extractLsb'_toNat, Nat.shiftRight_eq_div_pow]
theorem fieldB_toNat (w : Word) : (fieldB w).toNat = w.toNat / 2 ^ 8 % 256 := by
  simp [fieldB, BitVec.extractLsb'_toNat, Nat.shiftRight_eq_div_pow]
theorem fieldC_toNat (w : Word) : (fieldC w).toNat = w.toNat % 256 := by
  simp [fieldC, BitVec.extractLsb'_toNat]

@[simp] theorem fieldOp_pack (a b c d : Byte) : fieldOp (packWord a b c d) = a := by
  apply BitVec.eq_of_toNat_eq; rw [fieldOp_toNat, packWord_toNat]; omega
@[simp] theorem fieldA_pack (a b c d : Byte) : fieldA (packWord a b c d) = b := by
  apply BitVec.eq_of_toNat_eq; rw [fieldA_toNat, packWord_toNat]; omega
@[simp] theorem fieldB_pack (a b c d : Byte) : fieldB (packWord a b c d) = c := by
  apply BitVec.eq_of_toNat_eq; rw [fieldB_toNat, packWord_toNat]; omega
@[simp] theorem fieldC_pack (a b c d : Byte) : fieldC (packWord a b c d) = d := by
  apply BitVec.eq_of_toNat_eq; rw [fieldC_toNat, packWord_toNat]; omega

/-- A word is the word of its four fields. -/
theorem pack_fields (w : Word) : packWord (fieldOp w) (fieldA w) (fieldB w) (fieldC w) = w := by
  apply BitVec.eq_of_toNat_eq
  rw [packWord_toNat, fieldOp_toNat, fieldA_toNat, fieldB_toNat, fieldC_toNat]
  have := w.isLt
  omega

/-- Masking a word is masking its fields. -/
theorem packWord_and (a b c d m n p q : Byte) :
    packWord a b c d &&& packWord m n p q = packWord (a &&& m) (b &&& n) (c &&& p) (d &&& q) := by
  unfold packWord
  rw [BitVec.and_append, BitVec.and_append, BitVec.and_append]

end Sys2Proof
end

