-- ==== Sys2Proof/Laws/Operations.lean ====
section
/-! SUPPORT. One lemma for each remaining shared operation that says everything it can do; what a step can be. -/

namespace Sys2Proof.Machine

/-! ### Checksum -/

theorem crcFrom_append (c : Half) (xs ys : List Byte) : crcFrom c (xs ++ ys) = crcFrom (crcFrom c xs) ys := by
  induction xs generalizing c with
  | nil => rfl
  | cons x xs ih => exact ih _

/-! ### DECODE -/

/-- R163: what the shared operation of the three `DECODE` rows can do; the last case is the only one that writes outputs. -/
theorem decodeSample_cases (hoff toff : Byte) (selHum selTemp : Bool) (s : State) :
    (s.pvalid = false ∧ decodeSample hoff toff selHum selTemp s = s.accept.raise .decodeInvalid)
      ∨ (s.pvalid = true ∧ (outOfRange selHum hoff s.count = true ∨ outOfRange selTemp toff s.count = true)
          ∧ decodeSample hoff toff selHum selTemp s = s.accept.raise .decodeRange)
      ∨ (s.pvalid = true ∧ outOfRange selHum hoff s.count = false ∧ outOfRange selTemp toff s.count = false
          ∧ decodeSample hoff toff selHum selTemp s = (writeSample hoff toff selHum selTemp s.accept).completeOk) := by
  unfold decodeSample
  cases hp : s.pvalid
  · exact .inl ⟨rfl, rfl⟩
  · right
    cases hh : outOfRange selHum hoff s.count
    · cases ht : outOfRange selTemp toff s.count
      · exact .inr ⟨rfl, rfl, rfl, rfl⟩
      · exact .inl ⟨rfl, .inr rfl, rfl⟩
    · exact .inl ⟨rfl, .inl rfl, rfl⟩

/-! ### The command in progress never looks at the host -/

theorem verify_withHost (h : List HostAction) (s : State) : verify (s.withHost h) = (verify s).withHost h := by
  by_cases h1 : crc16 (checkedBytes s.rxbuf s.count) = rxCrc s.rxbuf s.count
  · rw [verify_match s h1, verify_match (s.withHost h) h1]; rfl
  · cases h2 : exhausted (satInc s.errcnt)
    · rw [verify_retry s h1 h2, verify_retry (s.withHost h) h1 h2]; rfl
    · rw [verify_exhausted s h1 h2, verify_exhausted (s.withHost h) h1 h2]; rfl

theorem answered_withHost (act : BusAct) (r : BusReply) (h : List HostAction) (s : State) :
    answered act r (s.withHost h) = (answered act r s).withHost h := by
  cases act with
  | opening addr => simp only [answered, openAnswered]; cases r.accepted <;> rfl
  | send bytes =>
    simp only [answered, sendAnswered, requestAnswered, State.withHost_seq]
    cases s.seq <;> first | rfl | (cases r.accepted <;> rfl)
  | recv n => simp only [answered, receiveAnswered]; cases r.received n <;> rfl
  | close => rfl
  | wait us => rfl

theorem transact_withHost (p : Pending) (h : List HostAction) (s : State) :
    transact p (s.withHost h) = (transact p s).withHost h := by
  unfold transact
  rw [State.withHost_replies]
  cases hr : s.replies with
  | nil => rfl
  | cons r rest => exact answered_withHost p.act r h (s.heard p r rest)

theorem tick_withHost (h : List HostAction) (s : State) : tick (s.withHost h) = (tick s).withHost h := by
  unfold tick
  rw [State.withHost_pending]
  cases s.pending with
  | none =>
    by_cases hv : s.seq = .verifying
    · exact (if_pos hv).trans ((verify_withHost h s).trans (congrArg (State.withHost h) (if_pos hv).symm))
    · exact (if_neg hv).trans (congrArg (State.withHost h) (if_neg hv).symm)
  | some p =>
    obtain ⟨act, t⟩ := p
    cases act with
    | wait us =>
      simp only [waitElapsed, State.endAct_seq, State.pass_seq, State.withHost_seq]
      cases s.seq <;> rfl
    | opening addr => exact transact_withHost _ h s
    | send bytes => exact transact_withHost _ h s
    | recv n => exact transact_withHost _ h s
    | close => rfl

theorem runCommand_withHost (n : Nat) (h : List HostAction) (s : State) :
    runCommand n (s.withHost h) = (runCommand n s).withHost h := by
  induction n generalizing s with
  | zero => rfl
  | succ n ih =>
    cases hb : s.busy with
    | false => rw [runCommand_rest _ s hb, runCommand_rest _ (s.withHost h) hb]
    | true => rw [runCommand_succ _ s hb, runCommand_succ _ (s.withHost h) hb, tick_withHost, ih]

/-! ### A command -/

/-- Every command ends in a next state: its own effect, a fault of R200, or a wait for the bus. -/
theorem exec_total (i : Instr) (s : State) : ∃ t, exec i s = .next t := by
  cases i with
  | crcInit => exact ⟨_, rfl⟩
  | crcByte a => exact ⟨_, rfl⟩
  | readRegs a b => simp only [exec, execReadRegs]; split <;> exact ⟨_, rfl⟩
  | openBus a =>
    simp only [exec, execOpen]
    split
    · exact ⟨_, rfl⟩
    · split <;> exact ⟨_, rfl⟩
  | close => simp only [exec, execClose]; split <;> exact ⟨_, rfl⟩
  | decodeHum a b => exact ⟨_, rfl⟩
  | decodeTemp a b => exact ⟨_, rfl⟩
  | decodeBoth a b => exact ⟨_, rfl⟩

/-! ### A step -/

/-- What a step that goes on can be: a reset, the command in progress, nothing, a word at rest, or another action of the host at
rest. -/
theorem step_cases {s t : State} (h : step s = .next t) :
    (∃ after left rest, s.host = .reset after left :: rest ∧ t = hardReset left (s.withHost rest))
      ∨ (s.busy = true ∧ resumeCommand s = .next t)
      ∨ (s.busy = false ∧ s.host = [] ∧ t = s)
      ∨ (s.busy = false ∧ ∃ w rest, s.host = .issue w :: rest ∧ runWord w (takeCommand rest s) = .next t)
      ∨ (s.busy = false ∧ ∃ a rest, s.host = a :: rest ∧ hostAct a rest s = .next t) := by
  unfold step at h
  split at h
  · rename_i hh
    split at h
    · exact .inr (.inl ⟨‹_›, h⟩)
    · rename_i hb
      cases h
      exact .inr (.inr (.inl ⟨by simpa using hb, hh, rfl⟩))
  · rename_i after left rest hh
    cases h
    exact .inl ⟨after, left, rest, hh, rfl⟩
  · rename_i w rest hh
    split at h
    · exact .inr (.inl ⟨‹_›, h⟩)
    · rename_i hb
      exact .inr (.inr (.inr (.inl ⟨by simpa using hb, w, rest, hh, h⟩)))
  · rename_i a rest _ _ hh
    split at h
    · exact .inr (.inl ⟨‹_›, h⟩)
    · rename_i hb
      exact .inr (.inr (.inr (.inr ⟨by simpa using hb, a, rest, hh, h⟩)))

/-- Another action of the host at rest touches the host's side and the clock, nothing of the block. -/
theorem hostAct_frame {a : HostAction} {rest : List HostAction} {s t : State} (h : hostAct a rest s = .next t) :
    t = { s with host := t.host, results := t.results, now := t.now, draws := t.draws } ∧ s.now ≤ t.now := by
  unfold hostAct at h
  split at h
  · cases h; exact ⟨rfl, Nat.le_refl _⟩
  · cases h; exact ⟨rfl, Nat.le_refl _⟩
  · cases h; exact ⟨rfl, Nat.le_refl _⟩
  · cases h; exact ⟨rfl, by simp; omega⟩
  · split at h <;> cases h
    exact ⟨rfl, Nat.le_refl _⟩
  · cases h; exact ⟨rfl, Nat.le_refl _⟩
  · cases h
    unfold sampleNext
    split
    · exact ⟨rfl, Nat.le_refl _⟩
    · split <;> exact ⟨rfl, Nat.le_refl _⟩
  · cases h
    unfold decodeNext
    split <;> exact ⟨rfl, Nat.le_refl _⟩

end Sys2Proof.Machine
end

