-- ==== Sys2Proof/Laws/PerInstr.lean ====
section
/-! SUPPORT. One statement per command: the word of a well-formed command matches its own row of `opcode_table.json`. -/

namespace Sys2Proof.Laws

/-- The mask of a command's row of the table, field by field. -/
def TableRow.mask : Instr → Word
  | .crcInit => packWord 0xFF#8 0xFF#8 0xFF#8 0xFF#8
  | .crcByte _ => packWord 0xFF#8 0x00#8 0xFF#8 0xFF#8
  | .readRegs _ _ => packWord 0xFF#8 0x00#8 0x00#8 0xFF#8
  | .openBus _ => packWord 0xFF#8 0x80#8 0xFF#8 0xFF#8
  | .close => packWord 0xFF#8 0xFF#8 0xFF#8 0xFF#8
  | .decodeHum _ _ => packWord 0xFF#8 0x00#8 0x00#8 0xFF#8
  | .decodeTemp _ _ => packWord 0xFF#8 0x00#8 0x00#8 0xFF#8
  | .decodeBoth _ _ => packWord 0xFF#8 0x00#8 0x00#8 0xFF#8

/-- The pattern of a command's row of the table, field by field. -/
def TableRow.pattern : Instr → Word
  | .crcInit => packWord 0x01#8 0x00#8 0x00#8 0x00#8
  | .crcByte _ => packWord 0x02#8 0x00#8 0x00#8 0x00#8
  | .readRegs _ _ => packWord 0x03#8 0x00#8 0x00#8 0x00#8
  | .openBus _ => packWord 0x04#8 0x00#8 0x00#8 0x00#8
  | .close => packWord 0x05#8 0x00#8 0x00#8 0x00#8
  | .decodeHum _ _ => packWord 0x06#8 0x00#8 0x00#8 0x01#8
  | .decodeTemp _ _ => packWord 0x06#8 0x00#8 0x00#8 0x02#8
  | .decodeBoth _ _ => packWord 0x06#8 0x00#8 0x00#8 0x03#8

/-- The command's word is one of its row of the table. -/
def TableRow.Statement (i : Instr) : Prop := i.wf = true → encode i &&& TableRow.mask i = TableRow.pattern i

theorem TableRow.crcInit : TableRow.Statement .crcInit := by
  intro _; simp [encode, TableRow.mask, TableRow.pattern, packWord_and]

theorem TableRow.crcByte (data : Byte) : TableRow.Statement (.crcByte data) := by
  intro _; simp [encode, TableRow.mask, TableRow.pattern, packWord_and]

theorem TableRow.readRegs (start count : Byte) : TableRow.Statement (.readRegs start count) := by
  intro _; simp [encode, TableRow.mask, TableRow.pattern, packWord_and]

/-- A 7-bit address has bit 7 clear. -/
theorem TableRow.highBit (addr : Byte) (h : addr.msb = false) : addr &&& 0x80#8 = 0#8 := by
  revert addr; decide

theorem TableRow.openBus (addr : Byte) : TableRow.Statement (.openBus addr) := by
  intro h
  have h7 := TableRow.highBit addr (by simpa [Instr.wf] using h)
  simp [encode, TableRow.mask, TableRow.pattern, packWord_and, h7]

theorem TableRow.close : TableRow.Statement .close := by
  intro _; simp [encode, TableRow.mask, TableRow.pattern, packWord_and]

theorem TableRow.decodeHum (hoff toff : Byte) : TableRow.Statement (.decodeHum hoff toff) := by
  intro _; simp [encode, TableRow.mask, TableRow.pattern, packWord_and]

theorem TableRow.decodeTemp (hoff toff : Byte) : TableRow.Statement (.decodeTemp hoff toff) := by
  intro _; simp [encode, TableRow.mask, TableRow.pattern, packWord_and]

theorem TableRow.decodeBoth (hoff toff : Byte) : TableRow.Statement (.decodeBoth hoff toff) := by
  intro _; simp [encode, TableRow.mask, TableRow.pattern, packWord_and]

end Sys2Proof.Laws
end

