-- ==== Sys2Proof/Tests/Slice0.lean ====
section
/-! SUPPORT. The model's own tests. Expected values come from `95_test_vectors.md` (the vector is named) or from the encodings of
`30_encoding.md`, never from the model. Then one witness for the hypotheses of every statement that has any. -/

namespace Sys2Proof.Tests
open Sys2Proof.Machine

/-! ### Helpers -/

/-- The outcome is a next state with the property. -/
def nextIs (o : Host.Outcome State Fault Refusal) (p : State → Bool) : Bool :=
  match o with
  | .next t => p t
  | .fault _ => false
  | .refused _ => false

theorem nextIs_elim {o : Host.Outcome State Fault Refusal} {p : State → Bool} (h : nextIs o p = true) :
    ∃ t, o = .next t ∧ p t = true := by
  cases o with
  | next t => exact ⟨t, rfl, h⟩
  | fault r => cases h
  | refused r => cases h

/-- The frames F6 and B6 of `95_test_vectors.md`. -/
def F6 : List Byte := [0x03#8, 0x04#8, 0x01#8, 0x8D#8, 0x00#8, 0xF2#8, 0xE1#8, 0xBA#8]
def B6 : List Byte := [0x03#8, 0x04#8, 0x01#8, 0x8D#8, 0x00#8, 0xF3#8, 0xE1#8, 0xBA#8]

def ok : BusReply := .ok []
def failing : BusReply := .fail [0xAA#8] 77#9
def hit : Attempt := ⟨ok, ok, .ok F6⟩
def miss : Attempt := ⟨failing, ok, .ok B6⟩

/-- After reset and an answered `OPEN`. -/
def opened : State := { State.reset with opened := true }
/-- After a read answered with F6. -/
def verified : State :=
  { opened with count := 4#8, rxbuf := Memory.writeBytes [] 0 F6, rxlen := 8#9, pvalid := true, crc := 0xBAE1#16 }
/-- A read whose wake write has not been answered. -/
def hung : State :=
  { opened with busy := true, seq := .waking, count := 4#8, pending := some { act := .send wakeFrame, began := 0 } }
/-- An `OPEN` whose bus transaction has not been answered. -/
def opening : State := { State.reset with busy := true, pending := some { act := .opening 0x5C#7, began := 0 } }

theorem hit_delivers : hit.delivers 4#8 F6 := ⟨rfl, by decide⟩
theorem hit_matches : frameMatches 4#8 F6 = true := by decide +kernel
theorem miss_mismatching : miss.mismatching 4#8 := ⟨B6, ⟨rfl, by decide⟩, by decide +kernel⟩

theorem traceTimed_nil (n : Nat) : TraceTimed [] n := ⟨by simp, by simp, by simp⟩

theorem reset_inv : Inv State.reset := by
  constructor <;> simp [State.reset, Memory.wf, restSeq, exhausted, Config.errThreshold, traceTimed_nil]

theorem opened_inv : Inv opened := by
  constructor <;> simp [opened, State.reset, Memory.wf, restSeq, exhausted, Config.errThreshold, traceTimed_nil]

theorem verified_inv : Inv verified := by
  have h : verified.pvalid = true → crc16 (checkedBytes verified.rxbuf verified.count) = rxCrc verified.rxbuf verified.count
      ∧ verified.rxlen = BitVec.ofNat 9 (responseLen verified.count) := fun _ => by decide +kernel
  refine ⟨by decide, fun _ => rfl, fun _ => .inl rfl, fun _ => by decide, fun h => ?_, h, fun h => ?_, fun h => absurd rfl h,
    fun _ => rfl, by decide, by decide, traceTimed_nil _, fun p hp => ?_⟩
  · cases h
  · cases h
  · cases hp

theorem hung_inv : Inv hung := by
  constructor <;> simp [hung, opened, State.reset, Memory.wf, inProgress, traceTimed_nil]

theorem opening_inv : Inv opening := by
  constructor <;> simp [opening, State.reset, Memory.wf, inProgress, restSeq, exhausted, Config.errThreshold, traceTimed_nil]

/-- The environment's and the host's lists are free in the invariant. -/
theorem inv_around {s : State} (h : Inv s) (rs : List BusReply) (as : List HostAction) :
    Inv { s with replies := rs, host := as } :=
  ⟨h.memory, h.quiet, h.resting, h.settled, h.executing, h.verified, h.received, h.reading, h.decoded, h.codes, h.phases,
    h.timed, h.since⟩

/-! ### Well-formedness: the one check there is refuses -/

theorem test_wf_refuses_address_with_bit_7 : Instr.wf (.openBus 0x80#8) = false := by decide
theorem test_wf_accepts_greatest_address : Instr.wf (.openBus 0x7F#8) = true := by decide

/-! ### Decoding: words written from R62 to R68 -/

theorem test_decode_crcInit : decode 0x01000000#32 = .ok .crcInit := by decide
theorem test_decode_crcByte : decode 0b00000010101010110000000000000000#32 = .ok (.crcByte 0xAB#8) := by decide
theorem test_decode_readRegs : decode 0b00000011000000101111111100000000#32 = .ok (.readRegs 0x02#8 0xFF#8) := by decide
theorem test_decode_open : decode 0b00000100010111000000000000000000#32 = .ok (.openBus 0x5C#8) := by decide
theorem test_decode_close : decode 0x05000000#32 = .ok .close := by decide
theorem test_decode_hum : decode 0b00000110111111110000000000000001#32 = .ok (.decodeHum 0xFF#8 0#8) := by decide
theorem test_decode_temp : decode 0b00000110000000001111111000000010#32 = .ok (.decodeTemp 0#8 0xFE#8) := by decide
theorem test_decode_both : decode 0b00000110000000000000001000000011#32 = .ok (.decodeBoth 0#8 2#8) := by decide

theorem test_illegal_opcodes : decode 0#32 = .error .opcodeUnassigned ∧ decode 0x07000000#32 = .error .opcodeUnassigned
    ∧ decode 0xFF000000#32 = .error .opcodeUnassigned := by decide
theorem test_illegal_unused_operands : decode 0x01000001#32 = .error .unusedOperandNotZero
    ∧ decode 0x02AB0100#32 = .error .unusedOperandNotZero ∧ decode 0x03000401#32 = .error .unusedOperandNotZero
    ∧ decode 0x045C0001#32 = .error .unusedOperandNotZero ∧ decode 0x05010000#32 = .error .unusedOperandNotZero := by decide
theorem test_illegal_address : decode 0x04800000#32 = .error .addressNotSevenBits := by decide
theorem test_illegal_select : decode 0x06000200#32 = .error .selectEmpty ∧ decode 0x06000204#32 = .error .selectReserved
    ∧ decode 0x06000283#32 = .error .selectReserved := by decide

/-- The masks and patterns of `opcode_table.json`. -/
theorem test_table_rows :
    Laws.TableRow.mask (.crcByte 0#8) = 0xFF00FFFF#32 ∧ Laws.TableRow.mask (.readRegs 0#8 0#8) = 0xFF0000FF#32
      ∧ Laws.TableRow.mask (.openBus 0#8) = 0xFF80FFFF#32 ∧ Laws.TableRow.pattern (.decodeBoth 0#8 0#8) = 0x06000003#32 := by
  decide

theorem test_table_word : decodeTableWord 32 0x06000203 = some (.decodeBoth 0#8 2#8) := by decide
theorem test_table_word_refused : decodeTableWord 32 0x04800000 = none := by decide
theorem test_fetch_word_runs : nextIs (step (State.reset.withFetchWord 32 0x02030000))
    (fun t => t.crc == 0x41FF#16 && t.host.isEmpty && !t.busy) = true := by decide +kernel

/-! ### One command each -/

/-- V1.11. -/
theorem test_crc16 : crc16 (F6.take 6) = 0xBAE1#16 := by decide +kernel
/-- V1, command level. -/
theorem test_crcInit : nextIs (exec .crcInit verified) (fun t => t.crc == 0xFFFF#16 && t.pvalid) = true := by decide +kernel
theorem test_crcByte : nextIs (exec (.crcByte 0x03#8) State.reset) (fun t => portRead t 1 == 0x000041FF#32) = true := by
  decide +kernel

/-- V2.1. -/
theorem test_open : nextIs (exec (.openBus 0x5C#8) { State.reset with replies := [ok] })
    (fun t => status t == 0x00000002#32 && t.devaddr == 0x5C#7) = true := by decide +kernel
/-- V2.2. -/
theorem test_open_fails : nextIs (exec (.openBus 0x5C#8) { State.reset with replies := [failing] })
    (fun t => status t == 0x00010100#32) = true := by decide +kernel
/-- V2.4. -/
theorem test_close_without_handle : nextIs (exec .close State.reset) (fun t => status t == 0#32 && t.trace.isEmpty) = true := by
  decide +kernel
theorem test_close_keeps_payload : nextIs (exec .close verified)
    (fun t => !t.opened && t.pvalid && t.trace.length == 1) = true := by decide +kernel

/-- V3.2: a failing wake write changes nothing. -/
theorem test_read_first_attempt : nextIs (exec (.readRegs 0x00#8 4#8) { opened with replies := [failing, ok, .ok F6] })
    (fun t => status t == 0x00000006#32 && payload t == [0x01#8, 0x8D#8, 0x00#8, 0xF2#8] && t.crc == 0xBAE1#16) = true := by
  decide +kernel
/-- V3.6. -/
theorem test_read_exhausts : nextIs (exec (.readRegs 0x00#8 4#8)
      { opened with replies := (List.replicate 7 miss).flatMap Attempt.replies })
    (fun t => status t == 0x05000222#32 && t.crc == 0x7A20#16 && t.errcnt == 6#8 && t.replies.length == 3) = true := by
  decide +kernel

/-- V4: F6, `DECODE 0, 2, 3`. -/
theorem test_decode_both_runs : nextIs (exec (.decodeBoth 0#8 2#8) verified)
    (fun t => t.hum == 397#16 && !t.tneg && t.tmag == 242#15 && status t == 0x0000001E#32) = true := by decide +kernel
theorem test_decodeHum_clears_temperature : nextIs (exec (.decodeHum 2#8 0xFF#8) { verified with tvalid := true })
    (fun t => t.hum == 0x00F2#16 && t.hvalid && !t.tvalid) = true := by decide +kernel
theorem test_decodeTemp_ignores_first_offset : nextIs (exec (.decodeTemp 0xFF#8 0#8) verified)
    (fun t => t.tmag == 397#15 && t.tvalid && !t.hvalid) = true := by decide +kernel
theorem test_decode_range : nextIs (exec (.decodeBoth 3#8 0#8) { verified with hvalid := true })
    (fun t => t.lasterr == 7#8 && t.hvalid) = true := by decide +kernel
/-- V4.3, V4.8. -/
theorem test_temp_s : tempS true 321#15 = 0xFEBF#16 ∧ tempS true 32767#15 = 0x8001#16 := by decide

/-! ### Every statement with hypotheses has something to speak of -/

theorem test_meets_DecodeEncodeRoundTrip : Instr.wf (.openBus 0x7F#8) = true ∧ Instr.wf (.readRegs 0xFF#8 0xFF#8) = true := by
  decide
theorem test_meets_DecodedWordIsTheEncodedOne : decode 0x03FFFF00#32 = .ok (.readRegs 0xFF#8 0xFF#8) := by decide
theorem test_meets_IllegalWordsRaiseCmdIllegal : illegalByRule 0x04800000#32 ∧ ¬illegalByRule 0x047F0000#32
    ∧ ∃ s : State, s.busy = false ∧ s.host = [.issue 0x04800000#32] :=
  ⟨by unfold illegalByRule; decide, by unfold illegalByRule; decide,
    { State.reset with host := [.issue 0x04800000#32] }, rfl, rfl⟩
theorem test_meets_StepRunsTheDecodedCommand : ∃ (s : State) (w : Word) (rest : List HostAction) (i : Instr),
    s.host = .issue w :: rest ∧ s.busy = false ∧ decode w = .ok i :=
  ⟨{ State.reset with host := [.issue 0x05000000#32] }, 0x05000000#32, [], .close, rfl, rfl, by decide⟩
theorem test_meets_BusyBlockHoldsTheHost : ∃ s : State, Inv s ∧ s.busy = true ∧ resetNext s = false ∧ s.host ≠ [] :=
  ⟨_, inv_around hung_inv [] [.read 0], rfl, rfl, by simp⟩
theorem test_meets_InertUntilTheHostActs : State.reset.busy = false ∧ State.reset.host = [] ∧ hung.host = [] := by decide
theorem test_meets_UnansweredTransactionHangs :
    (Inv hung ∧ hung.busy = true ∧ hung.replies = [] ∧ resetNext hung = false
      ∧ ∃ p, hung.pending = some p ∧ (∀ us, p.act ≠ .wait us) ∧ p.act ≠ .close)
    ∧ ∃ (s : State) (left : Leftover), s.host = [.reset 0 left] ∧ s.busy = true :=
  ⟨⟨hung_inv, rfl, rfl, rfl, _, rfl, by simp, by simp⟩, { hung with host := [.reset 0 ⟨[], 0#16, false, 0#15, []⟩] }, _, rfl, rfl⟩
theorem test_meets_OpenFollowsItsRule : Instr.wf (.openBus 0x7F#8) = true ∧ opened.opened = true
    ∧ (∃ s : State, s.opened = false ∧ s.replies = [ok] ∧ resetNext s = false ∧ ok.accepted = true)
    ∧ ∃ s : State, s.opened = false ∧ s.replies = [failing] ∧ resetNext s = false ∧ failing.accepted = false :=
  ⟨by decide, rfl, ⟨{ State.reset with replies := [ok] }, rfl, rfl, rfl, rfl⟩,
    { State.reset with replies := [failing] }, rfl, rfl, rfl, rfl⟩
theorem test_meets_UnansweredOpenStaysBusy :
    Instr.wf (.openBus 0x00#8) = true ∧ State.reset.opened = false ∧ State.reset.replies = [] := by decide
theorem test_meets_CloseFollowsItsRule : opened.opened = true ∧ resetNext opened = false ∧ State.reset.opened = false := by decide
theorem test_meets_ReadNeedsOnlyTheHandle : State.reset.opened = false
    ∧ ∃ s : State, s.opened = true ∧ s.replies ≠ [] ∧ resetNext s = false ∧ s.errcnt = 6#8 :=
  ⟨rfl, { opened with replies := [ok], errcnt := 6#8 }, rfl, by simp, rfl, rfl⟩

/-- The three clauses of the comparison, at the counter values where they meet: 4, 5 and 255. -/
theorem test_meets_VerifyFollowsItsRules :
    (let s := verified;
      crc16 (Memory.slice s.rxbuf 0 (s.count.toNat + 2))
        = Memory.read s.rxbuf (s.count.toNat + 3) ++ Memory.read s.rxbuf (s.count.toNat + 2))
    ∧ (let s : State := { verified with rxbuf := Memory.writeBytes [] 0 B6 };
      crc16 (Memory.slice s.rxbuf 0 (s.count.toNat + 2))
        ≠ Memory.read s.rxbuf (s.count.toNat + 3) ++ Memory.read s.rxbuf (s.count.toNat + 2))
    ∧ (satInc 4#8).toNat ≤ 5 ∧ 5 < (satInc 5#8).toNat ∧ 5 < (satInc 255#8).toNat := by
  refine ⟨?_, ?_, by decide, by decide, by decide⟩ <;> decide +kernel

theorem test_meets_ReadCompletesOnAMatch :
    ∃ (s : State) (bad : List Attempt), s.opened = true ∧ resetNext s = false ∧ Memory.wf s.rxbuf
      ∧ (∀ x ∈ bad, x.mismatching 4#8)
      ∧ bad.length = 5 ∧ bad.length < attemptBudget s.errcnt ∧ hit.delivers 4#8 F6 ∧ frameMatches 4#8 F6 = true
      ∧ s.replies = (bad ++ [hit]).flatMap Attempt.replies ++ [] :=
  ⟨{ opened with replies := (List.replicate 5 miss ++ [hit]).flatMap Attempt.replies }, List.replicate 5 miss, rfl, rfl,
    by decide, fun x hx => (List.eq_of_mem_replicate hx) ▸ miss_mismatching, rfl, by decide, hit_delivers, hit_matches, by simp⟩
/-- The budget at the counter values of R142: 6 from 0, 1 from 5 on. -/
theorem test_budget : attemptBudget 0#8 = 6 ∧ attemptBudget 5#8 = 1 ∧ attemptBudget 6#8 = 1 ∧ attemptBudget 255#8 = 1 := by decide
theorem test_meets_FirstAttemptTrace : ∃ s : State, s.opened = true ∧ resetNext s = false ∧ hit.delivers 4#8 F6
    ∧ frameMatches 4#8 F6 = true ∧ Memory.wf s.rxbuf ∧ s.replies = hit.replies ++ [] :=
  ⟨{ opened with replies := hit.replies }, rfl, rfl, hit_delivers, hit_matches, by decide, by simp⟩
/-- At the counter values 0, 5 and 255. -/
theorem test_meets_ReadExhaustsItsBudget : ∀ v ∈ [(0#8, 6), (5#8, 1), (255#8, 1)],
    ∃ (s : State) (bad : List Attempt), s.opened = true ∧ resetNext s = false ∧ Memory.wf s.rxbuf
      ∧ (∀ x ∈ bad, x.mismatching 4#8) ∧ bad.length = max 1 (6 - s.errcnt.toNat) ∧ s.errcnt = v.1
      ∧ s.replies = bad.flatMap Attempt.replies ++ [] := by
  intro v h
  refine ⟨{ opened with errcnt := v.1, replies := (List.replicate v.2 miss).flatMap Attempt.replies }, List.replicate v.2 miss,
    rfl, rfl, (by decide : Memory.wf opened.rxbuf), fun x hx => (List.eq_of_mem_replicate hx) ▸ miss_mismatching, ?_, rfl,
    by simp⟩
  rw [List.length_replicate]
  simp only [List.mem_cons, List.not_mem_nil, or_false] at h
  rcases h with rfl | rfl | rfl <;> decide
theorem test_meets_AttemptsAreBounded : ∃ t, exec (.readRegs 0#8 4#8) opened = .next t := exec_total _ _
theorem test_meets_AnsweredCommandCompletes :
    (∃ s : State, s.opened = true ∧ resetNext s = false ∧ 18 ≤ s.replies.length)
    ∧ ∃ s : State, Inv s ∧ s.busy = true ∧ resetNext s = false ∧ 18 ≤ s.replies.length :=
  ⟨⟨{ opened with replies := List.replicate 18 ok }, rfl, rfl, by simp⟩,
    _, inv_around hung_inv (List.replicate 18 ok) [], rfl, rfl, by simp⟩
theorem test_meets_RequestFailureEndsTheRead : ∃ s : State, s.opened = true ∧ resetNext s = false ∧ s.replies = [ok, failing]
    ∧ failing.accepted = false := ⟨{ opened with replies := [ok, failing] }, rfl, rfl, rfl, rfl⟩
/-- A short read of `b + 3` bytes is a failing receive (R114). -/
theorem test_meets_ReceiveFailureEndsTheRead : ∃ (s : State) (d : BusReply), s.opened = true ∧ resetNext s = false
    ∧ s.replies = [ok, ok, d] ∧ ok.accepted = true ∧ d = .ok (F6.take 7) ∧ d.received (4 + 4) = none :=
  ⟨{ opened with replies := [ok, ok, .ok (F6.take 7)] }, _, rfl, rfl, rfl, rfl, rfl, by decide⟩
/-- The four endings of R147. -/
theorem test_meets_ResultsByEnding :
    Memory.wf State.reset.rxbuf
    ∧ (∃ t, exec (.readRegs 0#8 4#8) State.reset = .next t ∧ (!t.busy && t.lasterr == 5#8) = true)
    ∧ (∃ t, exec (.readRegs 0#8 4#8) { opened with replies := hit.replies } = .next t ∧ (!t.busy && t.lasterr == 0#8) = true)
    ∧ (∃ t, exec (.readRegs 0#8 4#8) { opened with errcnt := 5#8, replies := miss.replies } = .next t
        ∧ (!t.busy && t.lasterr == 2#8) = true)
    ∧ ∃ t, exec (.readRegs 0#8 4#8) { opened with replies := miss.replies ++ [ok, failing] } = .next t
        ∧ (!t.busy && t.lasterr == 1#8) = true :=
  ⟨by decide, nextIs_elim (by decide +kernel), nextIs_elim (by decide +kernel), nextIs_elim (by decide +kernel),
    nextIs_elim (by decide +kernel)⟩
theorem test_meets_NoPartialResult : ∃ t, exec (.readRegs 0#8 4#8) { verified with replies := [ok, ok, failing] } = .next t
    ∧ (!t.busy && t.lasterr != 0#8) = true := nextIs_elim (by decide +kernel)
theorem test_meets_ReadLeavesTheRestAlone :
    (∃ t, exec (.readRegs 0#8 4#8) State.reset = .next t)
    ∧ Memory.wf opened.rxbuf
    ∧ (∃ t, exec (.readRegs 0#8 4#8) opened = .next t ∧ t.busy = true)
    ∧ ∃ t, exec (.readRegs 0#8 4#8) { opened with replies := hit.replies } = .next t ∧ (t.errphase != 3#4) = true :=
  ⟨exec_total _ _, by decide, nextIs_elim (by decide +kernel), nextIs_elim (by decide +kernel)⟩
theorem test_meets_WakeAnswerIsDiscarded :
    (opened.opened = true ∧ resetNext opened = false
      ∧ ∃ t, exec (.readRegs 0#8 4#8) { opened with replies := failing :: [ok, .ok F6] } = .next t)
    ∧ ∃ p, hung.pending = some p ∧ p.act = .send [0xFF#8] ∧ hung.seq = .waking :=
  ⟨⟨rfl, rfl, exec_total _ _⟩, _, rfl, rfl, rfl⟩
theorem test_meets_WellFormedFrameIsDelivered : ∃ (s : State) (data : List Byte), s.opened = true ∧ resetNext s = false
    ∧ Memory.wf s.rxbuf ∧ data.length = 255 ∧ data.length ≤ 255 ∧ ok.accepted = true
    ∧ s.replies = [ok, ok, .ok (responseFrame data)] :=
  ⟨{ opened with replies := [ok, ok, .ok (responseFrame (List.replicate 255 7#8))] }, List.replicate 255 7#8, rfl, rfl, by decide,
    List.length_replicate, Nat.le_of_eq List.length_replicate, rfl, rfl⟩

/-- A state for each row of the table of R141. -/
theorem test_meets_SequencerFollowsItsTable :
    (∃ bs, hung.pending = some ⟨.send bs, 0⟩ ∧ hung.seq = .waking)
    ∧ (∃ s : State, s.pending = some ⟨.wait 850, 0⟩ ∧ s.seq = .waking)
    ∧ (∃ s : State, s.pending = some ⟨.send [3#8, 0#8, 4#8], 0⟩ ∧ s.seq = .requesting ∧ s.replies = [ok] ∧ ok.accepted = true)
    ∧ (∃ s : State, s.pending = some ⟨.send [3#8, 0#8, 4#8], 0⟩ ∧ s.seq = .requesting ∧ s.replies = [failing]
        ∧ failing.accepted = false)
    ∧ (∃ s : State, s.pending = some ⟨.wait 1800, 0⟩ ∧ s.seq = .awaitingResponse)
    ∧ (∃ s : State, s.pending = some ⟨.recv 8, 0⟩ ∧ s.seq = .awaitingResponse ∧ s.replies = [.ok F6]
        ∧ (BusReply.ok F6).received 8 ≠ none)
    ∧ (∃ s : State, s.pending = some ⟨.recv 8, 0⟩ ∧ s.seq = .awaitingResponse ∧ s.replies = [failing]
        ∧ failing.received 8 = none)
    ∧ (∃ s : State, s.pending = none ∧ s.seq = .verifying
        ∧ crc16 (checkedBytes s.rxbuf s.count) = rxCrc s.rxbuf s.count)
    ∧ (∃ s : State, s.pending = none ∧ s.seq = .verifying
        ∧ crc16 (checkedBytes s.rxbuf s.count) ≠ rxCrc s.rxbuf s.count)
    ∧ (∃ s : State, s.pending = some ⟨.opening 0x5C#7, 0⟩ ∧ s.seq = .fatal ∧ s.replies = [ok])
    ∧ (∃ s : State, s.pending = some ⟨.close, 0⟩ ∧ s.seq = .fatal)
    ∧ (∃ t, exec (.readRegs 0#8 4#8) State.reset = .next t)
    ∧ (hung.replies = [] ∧ (∃ p, hung.pending = some p ∧ (∀ us, p.act ≠ .wait us) ∧ p.act ≠ .close))
    ∧ (∃ left, ∃ s : State, s.host = [.reset 0 left])
    ∧ ∃ t, exec .close opened = .next t ∧ ∀ a b, Instr.close ≠ .readRegs a b :=
  ⟨⟨_, rfl, rfl⟩, ⟨{ hung with pending := some ⟨.wait 850, 0⟩ }, rfl, rfl⟩,
    ⟨{ hung with pending := some ⟨.send [3#8, 0#8, 4#8], 0⟩, seq := .requesting, replies := [ok] }, rfl, rfl, rfl, rfl⟩,
    ⟨{ hung with pending := some ⟨.send [3#8, 0#8, 4#8], 0⟩, seq := .requesting, replies := [failing] }, rfl, rfl, rfl, rfl⟩,
    ⟨{ hung with pending := some ⟨.wait 1800, 0⟩, seq := .awaitingResponse }, rfl, rfl⟩,
    ⟨{ hung with pending := some ⟨.recv 8, 0⟩, seq := .awaitingResponse, replies := [.ok F6] }, rfl, rfl, rfl, by decide⟩,
    ⟨{ hung with pending := some ⟨.recv 8, 0⟩, seq := .awaitingResponse, replies := [failing] }, rfl, rfl, rfl, by decide⟩,
    ⟨{ verified with seq := .verifying }, rfl, rfl, by decide +kernel⟩,
    ⟨{ verified with seq := .verifying, rxbuf := Memory.writeBytes [] 0 B6 }, rfl, rfl, by decide +kernel⟩,
    ⟨{ opening with seq := .fatal, errcnt := 6#8, replies := [ok] }, rfl, rfl, rfl⟩,
    ⟨{ opened with busy := true, seq := .fatal, errcnt := 6#8, pending := some ⟨.close, 0⟩ }, rfl, rfl⟩,
    exec_total _ _, ⟨rfl, _, rfl, by simp, by simp⟩,
    ⟨⟨[], 0#16, false, 0#15, []⟩, { hung with host := [.reset 0 ⟨[], 0#16, false, 0#15, []⟩] }, rfl⟩,
    (exec_total .close opened).elim (fun t h => ⟨t, h, by simp⟩)⟩

/-- The clauses of `DECODE`: nothing verified; the first offset out of range (`COUNT - 1`, and 255); the last in range
(`COUNT - 2`). -/
theorem test_meets_DecodeFollowsItsRule : opened.pvalid = false ∧ verified.pvalid = true
    ∧ verified.count.toNat ≤ (3#8).toNat + 1 ∧ verified.count.toNat ≤ (255#8).toNat + 1
    ∧ (2#8).toNat + 1 < verified.count.toNat ∧ (0#8).toNat + 1 < verified.count.toNat := by decide
/-- Each clause once more by its outcome; the offset 255 does not wrap (R163). -/
theorem test_decode_clauses_run : nextIs (exec (.decodeHum 2#8 3#8) verified) (fun t => t.hvalid && !t.tvalid) = true
    ∧ nextIs (exec (.decodeTemp 3#8 2#8) verified) (fun t => !t.hvalid && t.tvalid) = true
    ∧ nextIs (exec (.decodeBoth 2#8 3#8) verified) (·.lasterr == 7#8) = true
    ∧ nextIs (exec (.decodeBoth 3#8 2#8) verified) (·.lasterr == 7#8) = true
    ∧ nextIs (exec (.decodeHum 255#8 0#8) verified) (·.lasterr == 7#8) = true
    ∧ nextIs (exec (.decodeHum 0#8 0#8) opened) (·.lasterr == 6#8) = true := by
  refine ⟨?_, ?_, ?_, ?_, ?_, ?_⟩ <;> decide +kernel
theorem test_meets_TemperatureIsSignMagnitude : (0x7FFF#16).getLsbD 15 = false ∧ (0x8000#16).getLsbD 15 = true := by decide

/-- The clauses of the port at the ends of their ranges: 0x100 and 0x1FE carry payload bytes, 8, 0xFF and 0x1FF nothing. -/
theorem test_meets_ReadPortMap : (∃ k, k ≤ 254 ∧ 0x100 + k = 0x100) ∧ (∃ k, k ≤ 254 ∧ 0x100 + k = 0x1FE)
    ∧ (7 < 8 ∧ 8 < 0x100) ∧ (7 < 0xFF ∧ 0xFF < 0x100) ∧ (7 < 0x1FF ∧ 0x1FE < 0x1FF)
    ∧ portRead verified 0x100 = 0x01#32 ∧ portRead verified 0x103 = 0xF2#32 ∧ portRead verified 0x104 = 0#32
    ∧ ∃ s : State, s.busy = false ∧ s.host = [.read 0x1FE] := by
  refine ⟨⟨0, by omega⟩, ⟨254, by omega⟩, by omega, by omega, by omega, by decide +kernel, by decide +kernel, by decide +kernel,
    { State.reset with host := [.read 0x1FE] }, rfl, rfl⟩
theorem test_meets_HiddenBytesStayHidden : verified.pvalid = true ∧ opened.pvalid = false
    ∧ (verified.hvalid = false ∧ 7#16 ≠ verified.hum) ∧ (verified.tvalid = false ∧ 7#15 ≠ verified.tmag)
    ∧ (∃ s : State, s.hvalid = true ∧ s.tvalid = true ∧ 7#16 = s.hum ∧ true = s.tneg ∧ 7#15 = s.tmag)
    ∧ ∃ m : Memory, m ≠ verified.rxbuf ∧ ∀ k, k < verified.count.toNat → Memory.read m (k + 2) = Memory.read verified.rxbuf (k + 2) :=
  ⟨rfl, rfl, by decide, by decide,
    ⟨{ verified with hvalid := true, tvalid := true, hum := 7#16, tneg := true, tmag := 7#15 }, rfl, rfl, rfl, rfl, rfl⟩,
    Memory.writeBytes [] 0 (F6.take 6), by decide +kernel, by decide +kernel⟩
theorem test_meets_ResetEvent : ∃ (s : State) (left : Leftover), s.host = [.reset 0 left] ∧ s.busy = true ∧ s.pending ≠ none
    ∧ opened.pending = none :=
  ⟨{ hung with host := [.reset 0 ⟨[1#8], 7#16, true, 3#15, []⟩] }, _, rfl, rfl, by simp [hung], rfl⟩
theorem test_meets_ResetLandsInsideACommand : (∃ s : State, s.opened = true ∧ s.replies = [ok, ok] ∧ ok.accepted = true)
    ∧ State.reset.opened = false ∧ Instr.wf (.openBus 0#8) = true ∧ opened.opened = true :=
  ⟨⟨{ opened with replies := [ok, ok] }, rfl, rfl, rfl⟩, rfl, by decide, rfl⟩
/-- R240: a reset after five moves lands before the comparison of a frame that has arrived. -/
theorem test_reset_before_verify : nextIs
    (exec (.readRegs 0#8 4#8) { opened with replies := hit.replies, host := [.reset 5 ⟨[], 0#16, false, 0#15, []⟩] })
    (fun t => t.busy && t.seq == .verifying && nextIs (step t) (fun u => !u.busy && !u.pvalid && u.host.isEmpty)) = true := by
  decide +kernel
theorem test_meets_StepKeepsInvariant :
    ∃ s t : State, Inv s ∧ step s = .next t ∧ (!t.busy && t.pvalid && t.errcnt == 0#8) = true :=
  let s : State := { hung with replies := hit.replies }
  (nextIs_elim (o := step s) (p := fun t => !t.busy && t.pvalid && t.errcnt == 0#8) (by decide +kernel)).elim
    (fun t h => ⟨s, t, inv_around hung_inv hit.replies [], h⟩)
theorem test_meets_StepKeepsCadence :
    ∃ s t : State, Inv s ∧ InCadence s ∧ step s = .next t ∧ (t.trace.length == 5) = true :=
  let s : State := { hung with replies := hit.replies }
  (nextIs_elim (o := step s) (p := fun t => t.trace.length == 5) (by decide +kernel)).elim
    (fun t h => ⟨s, t, inv_around hung_inv hit.replies [], rfl, h⟩)
theorem test_meets_InvariantStatesNeverStop : Inv hung ∧ Inv opening
    ∧ ∃ s : State, Inv s ∧ s.host = [.pseudo (.sample .both 5 2)] ∧ s.busy = false :=
  ⟨hung_inv, opening_inv, _, inv_around opened_inv [] [.pseudo (.sample .both 5 2)], rfl, rfl⟩
theorem test_meets_AddressIsFixedWhileOpen :
    ∃ s t : State, Inv s ∧ step s = .next t ∧ s.opened = true ∧ (t.opened && t.devaddr == 0x5C#7) = true :=
  let s : State := { opened with replies := [], host := [.issue 0x04100000#32] }
  (nextIs_elim (o := step s) (p := fun t => t.opened && t.devaddr == 0x5C#7) (by decide +kernel)).elim
    (fun t h => ⟨s, t, inv_around opened_inv [] _, h.1, rfl, h.2⟩)

/-- The three writers: a reset, an `OPEN`, a read. -/
theorem test_meets_CounterHasThreeWriters :
    (nextIs (step { hung with errcnt := 4#8, host := [.reset 0 ⟨[], 0#16, false, 0#15, []⟩] }) (·.errcnt != 4#8) = true)
    ∧ (nextIs (step { State.reset with errcnt := 4#8, replies := [ok], host := [.issue 0x045C0000#32] })
        (fun t => t.errcnt != 4#8 && t.opened) = true)
    ∧ (nextIs (step { opened with replies := miss.replies, host := [.issue 0x03000400#32] }) (·.errcnt == 1#8) = true)
    ∧ Inv { opened with replies := miss.replies, host := [.issue 0x03000400#32] } :=
  ⟨by decide +kernel, by decide +kernel, by decide +kernel, inv_around opened_inv _ _⟩
theorem test_meets_ReadTakesItsTime : opened.opened = true
    ∧ (∃ t, exec (.readRegs 0#8 4#8) { opened with replies := hit.replies } = .next t ∧ (!t.busy && t.lasterr == 0#8) = true)
    ∧ ∃ t, exec (.readRegs 0#8 4#8) { opened with replies := (List.replicate 6 miss).flatMap Attempt.replies } = .next t
        ∧ (!t.busy && t.lasterr == 2#8) = true :=
  ⟨rfl, nextIs_elim (by decide +kernel), nextIs_elim (by decide +kernel)⟩
theorem test_meets_ChecksumSequenceReadsCrc16 : ∃ s : State, s.busy = false ∧ s.host = [.pseudo (.checksum [3#8])] :=
  ⟨{ State.reset with host := [.pseudo (.checksum [3#8])] }, rfl, rfl⟩
theorem test_meets_SampleReturnsTheLastRead : ∃ (s : State) (xs : List Attempt), Inv s ∧ s.busy = false ∧ s.opened = true
    ∧ s.host = [.pseudo (.sample .both 3 2)] ∧ (xs ++ [hit]).length = 3 ∧ (∀ x ∈ xs, x.matching Window.both.range.2)
    ∧ hit.delivers Window.both.range.2 F6 ∧ frameMatches Window.both.range.2 F6 = true
    ∧ s.replies = (xs ++ [hit]).flatMap Attempt.replies ++ [] :=
  ⟨_, [hit, hit], inv_around opened_inv (([hit, hit] ++ [hit]).flatMap Attempt.replies ++ []) [.pseudo (.sample .both 3 2)], rfl,
    rfl, rfl, rfl, fun x hx => by
      have : x = hit := by simpa using hx
      exact this ▸ ⟨F6, hit_delivers, hit_matches⟩, hit_delivers, hit_matches, rfl⟩
theorem test_meets_SampleStopsAtAFault : ∃ s : State, s.busy = false ∧ s.host = [.sampleCheck .both 1 2] ∧ s.lasterr ≠ 0#8 :=
  ⟨{ opened with lasterr := 2#8, host := [.sampleCheck .both 1 2] }, rfl, rfl, by decide⟩
theorem test_meets_SampleOutOfRangeIsRefused : ∃ s : State, s.busy = false ∧ s.host = [.pseudo (.sample .both 5 2)]
    ∧ ¬(2 ≤ 5 ∧ 5 ≤ 4 ∧ 2 ≤ 2 ∧ 2 ≤ 5) :=
  ⟨{ opened with host := [.pseudo (.sample .both 5 2)] }, rfl, rfl, by omega⟩
theorem test_meets_HostWaitOnlyPassesTime : ∃ s : State, s.busy = false ∧ s.host = [.waitSeconds 2] :=
  ⟨{ State.reset with host := [.waitSeconds 2] }, rfl, rfl⟩


theorem test_meets_DecodedFormIsGuarded :
    (∃ s : State, s.busy = false ∧ s.host = [.decodeCheck .both true] ∧ s.lasterr ≠ 0#8)
    ∧ (∃ s : State, s.busy = false ∧ s.host = [.pseudo (.decoded .tempOnly false)] ∧ s.opened = false)
    ∧ ∃ s : State, s.busy = false ∧ s.opened = true ∧ Memory.wf s.rxbuf ∧ s.host = [.pseudo (.decoded .both true)]
        ∧ hit.delivers Window.both.range.2 F6 ∧ frameMatches Window.both.range.2 F6 = true ∧ s.replies = hit.replies ++ [] :=
  ⟨⟨{ opened with lasterr := 5#8, host := [.decodeCheck .both true] }, rfl, rfl, by decide⟩,
    ⟨{ State.reset with host := [.pseudo (.decoded .tempOnly false)] }, rfl, rfl, rfl⟩,
    { opened with host := [.pseudo (.decoded .both true)], replies := hit.replies }, rfl, rfl, by decide, rfl, hit_delivers,
    hit_matches, rfl⟩

/-- After `CLOSE` the decoded form of `READ_ALL` stops at the `BadState` of its read: the old payload is not decoded (R186). -/
theorem test_decoded_form_stops : nextIs
    (Host.Core.run core 5 { verified with host := [.issue 0x05000000#32, .pseudo (.decoded .both false), .read 5] })
    (fun t => t.results == [.readFault 5#8, .value 5 0#32] && !t.hvalid) = true := by decide +kernel

end Sys2Proof.Tests
end

section
/-! The block's derived values in integers and naturals: `TEMP_S` (R24), the saturating error counter (R14), the values after
reset (R30). -/

namespace Sys2Proof.Machine

theorem tempS_false (mag : BitVec 15) : tempS false mag = mag.setWidth 16 := rfl

theorem tempS_true (mag : BitVec 15) : tempS true mag = -tempS false mag := BitVec.zero_sub _

/-- A 15-bit magnitude keeps its value in 16 signed bits: the sign bit stays clear. -/
theorem tempS_false_toInt (mag : BitVec 15) : (tempS false mag).toInt = (mag.toNat : Int) := by
  have hmag : mag.toNat < 2 ^ 15 := mag.isLt
  have hnat : (tempS false mag).toNat = mag.toNat := by
    rw [tempS_false]
    exact BitVec.toNat_setWidth_of_le (by decide)
  rw [BitVec.toInt_eq_toNat_of_lt (by omega), hnat]

/-- No magnitude reaches the most negative half word, so its negation does not wrap. -/
theorem tempS_true_toInt (mag : BitVec 15) : (tempS true mag).toInt = -(mag.toNat : Int) := by
  have hne : tempS false mag ≠ BitVec.intMin 16 := fun h => by
    have hmin := tempS_false_toInt mag
    rw [h, BitVec.toInt_intMin] at hmin
    omega
  rw [tempS_true, BitVec.toInt_neg_of_ne_intMin hne, tempS_false_toInt]

/-- Both signs stay within -32767 to 32767 (R24), and `0x8000` stands for -32768. -/
theorem tempS_ne_8000 (neg : Bool) (mag : BitVec 15) : tempS neg mag ≠ 0x8000#16 := by
  intro h
  have hlow : (tempS neg mag).toInt = -32768 := by rw [h]; decide
  have hmag : mag.toNat < 32768 := mag.isLt
  cases neg
  · rw [tempS_false_toInt] at hlow; omega
  · rw [tempS_true_toInt] at hlow; omega

/-- Saturation does not touch the test of R13: 255 is above the threshold already. -/
theorem exhausted_satInc (v : Byte) : exhausted (satInc v) = decide (5 < v.toNat + 1) := by
  rw [Bool.eq_iff_iff, exhausted_iff, satInc_toNat, decide_eq_true_iff]
  omega

end Sys2Proof.Machine

namespace Sys2Proof.StateProofs
open Sys2Proof.Machine

/-- Settles O35: the integer value of each sign, and the bound it gives. -/
theorem tempSIsTheSignedValue : Obligations.TempSIsTheSignedValue :=
  ⟨fun mag => ⟨tempS_true_toInt mag, tempS_false_toInt mag⟩, tempS_ne_8000, by decide, by decide⟩

/-- Settles O36: the count in numbers, and the test of R13 on it. -/
theorem counterSaturates : Obligations.CounterSaturates :=
  fun v => ⟨satInc_toNat v, exhausted_satInc v⟩

/-- Settles O40: the values R30 states are the fields of `State.reset`, computed with the two named constants among them
(the seed of `CRC`, the default address). -/
theorem resetValues : Obligations.ResetValues := by
  unfold Obligations.ResetValues
  decide

end Sys2Proof.StateProofs
end

section
/-! The illegal words (R68): what the decoder refuses at each opcode, and what the block does with a word it refuses. -/

namespace Sys2Proof

/-- An opcode is one of the six, or 0, or 7 and above (R61). -/
theorem opcode_cases (op : Byte) : op = 0#8 ∨ op = 1#8 ∨ op = 2#8 ∨ op = 3#8 ∨ op = 4#8 ∨ op = 5#8 ∨ op = 6#8 ∨ 7#8 ≤ op := by
  bv_omega

/-- `W[15:0]` holds the operands `b` and `c` (R60). -/
theorem lowHalf_eq_zero_iff (w : Word) : w.extractLsb' 0 16 = 0#16 ↔ fieldB w = 0#8 ∧ fieldC w = 0#8 := by
  simp only [← BitVec.toNat_inj, fieldB_toNat, fieldC_toNat, BitVec.extractLsb'_toNat, BitVec.toNat_ofNat, Nat.shiftRight_zero]
  omega

/-- `W[23:0]` holds the three operands (R60). -/
theorem operands_eq_zero_iff (w : Word) :
    w.extractLsb' 0 24 = 0#24 ↔ fieldA w = 0#8 ∧ fieldB w = 0#8 ∧ fieldC w = 0#8 := by
  simp only [← BitVec.toNat_inj, fieldA_toNat, fieldB_toNat, fieldC_toNat, BitVec.extractLsb'_toNat, BitVec.toNat_ofNat,
    Nat.shiftRight_zero]
  omega

/-- `a[7]` is the sign bit of `a` (R65). -/
theorem addressBit_eq_one_iff (a : Byte) : a.extractLsb' 7 1 = 1#1 ↔ a.msb = true := by
  revert a; decide

/-- The three selects a `DECODE` may have are those that set a bit of `c[1:0]` and none of `c[7:2]` (R67). -/
theorem select_legal_iff (c : Byte) :
    c = 1#8 ∨ c = 2#8 ∨ c = 3#8 ↔ c.extractLsb' 2 6 = 0#6 ∧ c.extractLsb' 0 2 ≠ 0#2 := by
  revert c; decide

/-- A decoder that checks one condition refuses exactly when the condition fails. -/
theorem check_refuses_iff {p : Prop} [Decidable p] {i : Instr} {r : IllegalWord} :
    (∃ e, (if p then Except.ok i else Except.error r) = Except.error e) ↔ ¬p := by
  split <;> simp [*]

theorem decodeSelect_refuses_iff (a b c : Byte) :
    (∃ e, decodeSelect a b c = .error e) ↔ c.extractLsb' 2 6 ≠ 0#6 ∨ c.extractLsb' 0 2 = 0#2 := by
  have hselect : (∃ e, decodeSelect a b c = .error e) ↔ ¬(c = 1#8 ∨ c = 2#8 ∨ c = 3#8) := by
    unfold decodeSelect
    split_ifs <;> simp [*]
  rw [hselect, select_legal_iff, not_and_or, not_not]

/-- The decoder refuses `CRC_INIT` and `CLOSE` exactly for an operand that is not 0. -/
theorem decode_noOperand_refuses_iff (w : Word) (hop : fieldOp w = 1#8 ∨ fieldOp w = 5#8) :
    (∃ e, decode w = .error e) ↔ w.extractLsb' 0 24 ≠ 0#24 := by
  rw [ne_eq, operands_eq_zero_iff]
  rcases hop with hop | hop <;> simp [decode, hop, check_refuses_iff]

theorem decode_crcByte_refuses_iff (w : Word) (hop : fieldOp w = 2#8) :
    (∃ e, decode w = .error e) ↔ w.extractLsb' 0 16 ≠ 0#16 := by
  rw [ne_eq, lowHalf_eq_zero_iff]
  simp [decode, hop, check_refuses_iff]

theorem decode_readRegs_refuses_iff (w : Word) (hop : fieldOp w = 3#8) :
    (∃ e, decode w = .error e) ↔ fieldC w ≠ 0#8 := by
  simp [decode, hop, check_refuses_iff]

theorem decode_open_refuses_iff (w : Word) (hop : fieldOp w = 4#8) :
    (∃ e, decode w = .error e) ↔ (fieldA w).extractLsb' 7 1 = 1#1 ∨ w.extractLsb' 0 16 ≠ 0#16 := by
  rw [ne_eq, lowHalf_eq_zero_iff, addressBit_eq_one_iff]
  by_cases hlow : fieldB w = 0#8 ∧ fieldC w = 0#8
  · cases ha : (fieldA w).msb <;> simp [decode, hop, hlow, ha]
  · simp [decode, hop, hlow]

theorem decode_select_refuses_iff (w : Word) (hop : fieldOp w = 6#8) :
    (∃ e, decode w = .error e) ↔ (fieldC w).extractLsb' 2 6 ≠ 0#6 ∨ (fieldC w).extractLsb' 0 2 = 0#2 := by
  simpa [decode, hop] using decodeSelect_refuses_iff (fieldA w) (fieldB w) (fieldC w)

/-- An opcode the map of R61 leaves out is refused whatever the operands. -/
theorem decode_reserved (w : Word) (hop : fieldOp w = 0#8 ∨ 7#8 ≤ fieldOp w) : decode w = .error .opcodeUnassigned := by
  have hout : fieldOp w ≠ 1#8 ∧ fieldOp w ≠ 2#8 ∧ fieldOp w ≠ 3#8 ∧ fieldOp w ≠ 4#8 ∧ fieldOp w ≠ 5#8 ∧ fieldOp w ≠ 6#8 := by
    bv_omega
  simp [decode, hout]

end Sys2Proof

namespace Sys2Proof.Machine

theorem illegalByRule_iff (w : Word) : illegalByRule w ↔
    fieldOp w = 0#8 ∨ 7#8 ≤ fieldOp w
      ∨ ((fieldOp w = 1#8 ∨ fieldOp w = 5#8) ∧ w.extractLsb' 0 24 ≠ 0#24)
      ∨ (fieldOp w = 2#8 ∧ w.extractLsb' 0 16 ≠ 0#16)
      ∨ (fieldOp w = 3#8 ∧ fieldC w ≠ 0#8)
      ∨ (fieldOp w = 4#8 ∧ ((fieldA w).extractLsb' 7 1 = 1#1 ∨ w.extractLsb' 0 16 ≠ 0#16))
      ∨ (fieldOp w = 6#8 ∧ ((fieldC w).extractLsb' 2 6 ≠ 0#6 ∨ (fieldC w).extractLsb' 0 2 = 0#2)) :=
  Iff.rfl

/-- The decoder refuses a word exactly when a clause of R68 holds: each opcode leaves one clause standing. -/
theorem decode_refuses_iff (w : Word) : (∃ e, decode w = .error e) ↔ illegalByRule w := by
  rw [illegalByRule_iff]
  rcases opcode_cases (fieldOp w) with hop | hop | hop | hop | hop | hop | hop | hop
  · simp [decode_reserved w (.inl hop), hop]
  · simp [decode_noOperand_refuses_iff w (.inl hop), hop]
  · simp [decode_crcByte_refuses_iff w hop, hop]
  · simp [decode_readRegs_refuses_iff w hop, hop]
  · simp [decode_open_refuses_iff w hop, hop]
  · simp [decode_noOperand_refuses_iff w (.inr hop), hop]
  · simp [decode_select_refuses_iff w hop, hop]
  · simp [decode_reserved w (.inr hop), hop]

/-- At rest the word at the head of the host's queue is taken and run (R60). -/
theorem step_issue {s : State} {w : Word} {rest : List HostAction} (hb : s.busy = false) (hh : s.host = .issue w :: rest) :
    step s = runWord w (takeCommand rest s) := by
  simp [step, hh, hb]

theorem runWord_error {w : Word} {e : IllegalWord} (h : decode w = .error e) (s : State) : runWord w s = .next (rejectWord s) := by
  simp [runWord, h]

theorem takeCommand_now_le (rest : List HostAction) (s : State) : s.now ≤ (takeCommand rest s).now := by
  simp [takeCommand]

/-- A refused word leaves the queue and changes `BUSY`, `LASTERR` and `ERRPHASE` (R68, R204); the clock moves only by the wait
before the word is taken. -/
theorem rejectWord_answers (rest : List HostAction) (s : State) : Answers (.next (rejectWord (takeCommand rest s)))
    { s with host := rest, lasterr := 0x04#8, errphase := 0#4, busy := false } :=
  ⟨_, rfl, rfl, takeCommand_now_le rest s⟩

end Sys2Proof.Machine

namespace Sys2Proof.EncodingProofs
open Sys2Proof.Machine

/-- Settles O4: the decoder's refusals opcode by opcode, and the step on a refused word. -/
theorem illegalWordsRaiseCmdIllegal : Obligations.IllegalWordsRaiseCmdIllegal := by
  refine ⟨decode_refuses_iff, fun s w rest hw hb hh => ?_⟩
  obtain ⟨e, he⟩ := (decode_refuses_iff w).mpr hw
  rw [step_issue hb hh, runWord_error he]
  exact rejectWord_answers rest s

end Sys2Proof.EncodingProofs
end

section
/-! The checksum accumulator: the model's loop is an iterate of the rule's one step (R90), and the next state of the two
commands that write `CRC` (R92, R93). -/

namespace Sys2Proof.Machine

/-- The loop of R90 in the library's terms, so that `Function.iterate` lemmas speak of it. -/
theorem crcShifts_eq_iterate (n : Nat) (v : Half) : crcShifts n v = crcShift^[n] v := by
  induction n generalizing v with
  | zero => rfl
  | succ n ih => rw [crcShifts, ih, Function.iterate_succ_apply]

theorem crcStep_eq_iterate (c : Half) (b : Byte) : crcStep c b = crcShift^[8] (c ^^^ b.setWidth 16) :=
  crcShifts_eq_iterate 8 _

/-- An outcome answers its own next state. -/
theorem answers_next (s : State) : Answers (.next s) s := ⟨s, rfl, rfl, le_rfl⟩

/-- `CRC_INIT` whole (R92): what the acceptance writes, the completion writes over. -/
theorem exec_crcInit (s : State) :
    exec .crcInit s = .next { s with crc := Config.crcSeed, lasterr := 0#8, errphase := 0#4, busy := false } := rfl

/-- `CRC_BYTE` whole (R93). -/
theorem exec_crcByte (a : Byte) (s : State) :
    exec (.crcByte a) s = .next { s with crc := crcStep s.crc a, lasterr := 0#8, errphase := 0#4, busy := false } := rfl

end Sys2Proof.Machine

namespace Sys2Proof.ChecksumProofs
open Sys2Proof.Machine

/-- Settles O9: the model's loop is the iterate of `crcShift`, which is the rule's step with `CRC_POLY` written out; the worked
value is computed. -/
theorem crcStepIsTheRulesLoop : Obligations.CrcStepIsTheRulesLoop :=
  ⟨crcStep_eq_iterate, by decide⟩

/-- Settles O10: the next state of `CRC_INIT`, with `CRC_SEED` written out. -/
theorem crcInitSeeds : Obligations.CrcInitSeeds := fun s => by
  rw [exec_crcInit, Config.crcSeed]
  exact answers_next _

/-- Settles O11: the next state of `CRC_BYTE`. -/
theorem crcByteSteps : Obligations.CrcByteSteps := fun s a => by
  rw [exec_crcByte]
  exact answers_next _

end Sys2Proof.ChecksumProofs
end

section
/-! The bus commands: `OPEN` with and without a handle, and what one answer of the bus makes of it (R117). -/

namespace Sys2Proof.Machine

/-- A transaction answered, clock values aside: the answer is used up and the trace has grown by its event (R111, R119). -/
theorem heard_untimed (s : State) (p : Pending) (r : BusReply) (rest : List BusReply) :
    (s.heard p r rest).untimed =
      { s.untimed with
        pending := none, replies := rest
        trace := s.untimed.trace ++ [event p.act (some (answerOf p.act r))] } := by
  simp only [State.untimed, State.endAct_trace, State.pass_trace, List.map_append]
  rfl

/-- Both answers of `BusOpen` end the command. -/
theorem openAnswered_busy (addr : BitVec 7) (accepted : Bool) (s : State) : (openAnswered addr accepted s).busy = false := by
  cases accepted <;> rfl

/-- `BusOpen` answered `Ok` (R117). The cleared decoder values are whatever they have become. -/
theorem openAnswered_true_untimed (addr : BitVec 7) (s : State) :
    (openAnswered addr true s).untimed =
      { s.untimed with
        devaddr := addr, opened := true, errcnt := 0#8, pvalid := false, hvalid := false, tvalid := false
        hum := (openAnswered addr true s).hum
        tneg := (openAnswered addr true s).tneg
        tmag := (openAnswered addr true s).tmag
        seq := .idle, lasterr := 0#8, errphase := 0#4, busy := false } := rfl

/-- `BusOpen` answered `Fail` (R117). -/
theorem openAnswered_false_untimed (addr : BitVec 7) (s : State) :
    (openAnswered addr false s).untimed = { s.untimed with lasterr := 0x01#8, errphase := 1#4, busy := false } := rfl

/-- The address byte of a legal `OPEN` has its high bit clear (R65). -/
theorem wf_openBus_iff (a : Byte) : Instr.wf (.openBus a) = true ↔ a.msb = false := by
  simp [Instr.wf]

theorem exec_open_handle {s : State} {a : Byte} (hwf : Instr.wf (.openBus a) = true) (ho : s.opened = true) :
    exec (.openBus a) s = .next (s.accept.raise .badState) := by
  simp [exec, execOpen, (wf_openBus_iff a).mp hwf, ho]

theorem exec_open_noHandle {s : State} {a : Byte} (hwf : Instr.wf (.openBus a) = true) (ho : s.opened = false) :
    exec (.openBus a) s = .next (runOn (s.accept.beginAct (.opening (addr7 a)))) := by
  simp [exec, execOpen, (wf_openBus_iff a).mp hwf, ho]

/-- A command whose one move completes it, with no reset inside it, is that move. -/
theorem runOn_oneMove {s : State} (hb : s.busy = true) (hreset : resetNext s = false) (hdone : (tick s).busy = false) :
    runOn s = tick s := by
  rw [runOn_full s hreset, show maxTicks = 35 + 1 from rfl, runCommand_succ _ s hb, runCommand_rest _ _ hdone]

/-- A call of `BusOpen` with an answer there: the command is complete with the answer. -/
theorem runOn_opening {s : State} {addr : BitVec 7} {t : Nat} {r : BusReply} {rest : List BusReply} (hb : s.busy = true)
    (hreset : resetNext s = false) (hp : s.pending = some ⟨.opening addr, t⟩) (hr : s.replies = r :: rest) :
    runOn s = openAnswered addr r.accepted (s.heard ⟨.opening addr, t⟩ r rest) := by
  have hmove := tick_open s addr t r rest hp hr
  rw [runOn_oneMove hb hreset (by rw [hmove, openAnswered_busy]), hmove]

/-- `OPEN` without a handle and with an answer there is its one transaction, answered. -/
theorem exec_open_answered {s : State} {a : Byte} {r : BusReply} {rest : List BusReply} (hwf : Instr.wf (.openBus a) = true)
    (ho : s.opened = false) (hr : s.replies = r :: rest) (hreset : resetNext s = false) :
    exec (.openBus a) s = .next (openAnswered (addr7 a) r.accepted
      ((s.accept.beginAct (.opening (addr7 a))).heard ⟨.opening (addr7 a), s.now⟩ r rest)) :=
  (exec_open_noHandle hwf ho).trans (congrArg Host.Outcome.next (runOn_opening rfl hreset rfl hr))

end Sys2Proof.Machine

namespace Sys2Proof.TransportProofs
open Sys2Proof.Machine

/-- Settles O15: with a handle the fault of R117; without one the transaction of `exec_open_answered`, by its answer. -/
theorem openFollowsItsRule : Obligations.OpenFollowsItsRule := by
  refine fun s a hwf => ⟨fun ho => ?handle, fun r rest ho hr hreset => ?noHandle⟩
  case handle =>
    rw [exec_open_handle hwf ho]
    exact answers_next _
  case noHandle =>
    have hexec := exec_open_answered hwf ho hr hreset
    refine ⟨fun hok => ⟨_, hexec, ?_⟩, fun hfail => ⟨_, hexec, ?_⟩⟩
    · rw [hok, openAnswered_true_untimed, heard_untimed, answerOf, hok]
      rfl
    · rw [hfail, openAnswered_false_untimed, heard_untimed, answerOf, hfail]
      rfl

end Sys2Proof.TransportProofs
end

section
/-! The protocol read: where each stage of the sequencer leaves `SEQ` (R141), the bus trace, which a command in progress only
extends (R119), and the entry of `READ_REGS` (R131 to R133). -/

namespace Sys2Proof.Machine

/-! ### `SEQ` after each stage -/

@[simp] theorem startAttempt_seq (s : State) : (startAttempt s).seq = .waking := rfl

@[simp] theorem startRequest_seq (s : State) : (startRequest s).seq = .requesting := rfl

@[simp] theorem startReceive_seq (s : State) : (startReceive s).seq = s.seq := rfl

@[simp] theorem closeAnswered_seq (s : State) : (closeAnswered s).seq = s.seq := rfl

@[simp] theorem openAnswered_seq (addr : BitVec 7) (accepted : Bool) (s : State) :
    (openAnswered addr accepted s).seq = if accepted then .idle else s.seq := by
  cases accepted <;> rfl

@[simp] theorem requestAnswered_seq (accepted : Bool) (s : State) :
    (requestAnswered accepted s).seq = if accepted then .awaitingResponse else restSeq s.errcnt := by
  cases accepted <;> rfl

theorem receiveAnswered_seq_some {n : Nat} {r : BusReply} {bytes : List Byte} (h : r.received n = some bytes) (s : State) :
    (receiveAnswered n r s).seq = .verifying := by
  rw [receiveAnswered, h]

theorem receiveAnswered_seq_none {n : Nat} {r : BusReply} (h : r.received n = none) (s : State) :
    (receiveAnswered n r s).seq = restSeq s.errcnt := by
  rw [receiveAnswered, h]
  rfl

theorem verify_seq_match (s : State) (h : crc16 (checkedBytes s.rxbuf s.count) = rxCrc s.rxbuf s.count) :
    (verify s).seq = .idle := by
  rw [verify_match s h]
  rfl

/-- `exhausted_iff` for the other side of the threshold. -/
theorem exhausted_eq_false_iff (e : Byte) : exhausted e = false ↔ e.toNat ≤ 5 := by
  rw [Bool.eq_false_iff, ne_eq, exhausted_iff, not_lt]

theorem verify_seq_mismatch (s : State) (h : crc16 (checkedBytes s.rxbuf s.count) ≠ rxCrc s.rxbuf s.count) :
    (verify s).seq = if 5 < (satInc s.errcnt).toNat then .fatal else .waking := by
  split
  next hover => rw [verify_exhausted s h ((exhausted_iff _).mpr hover)]; rfl
  next hover => rw [verify_retry s h ((exhausted_eq_false_iff _).mpr (not_lt.mp hover))]; rfl

/-- A `DECODE` leaves `SEQ`, however it ends (R163). -/
theorem decodeSample_seq (hoff toff : Byte) (selHum selTemp : Bool) (s : State) :
    (decodeSample hoff toff selHum selTemp s).seq = s.seq := by
  obtain ⟨-, h⟩ | ⟨-, -, h⟩ | ⟨-, -, -, h⟩ := decodeSample_cases hoff toff selHum selTemp s <;> rw [h] <;> rfl

/-! ### The rows of R141: `SEQ` after one move -/

section Rows
variable {s : State} {p : Pending} {r : BusReply} {rest : List BusReply}

/-- The transaction or wait in progress, written with what it does. -/
theorem pending_eq_mk {act : BusAct} (hp : s.pending = some p) (ha : p.act = act) : s.pending = some ⟨act, p.began⟩ := by
  rw [hp, ← ha]

/-- Answered or not, the wake write leaves the block waking (R133, R120). -/
theorem tick_seq_wakeWrite {bs : List Byte} (hp : s.pending = some p) (ha : p.act = .send bs) (hq : s.seq = .waking) :
    (tick s).seq = .waking := by
  cases hr : s.replies with
  | nil => rw [tick_unanswered s p hp (by simp [ha]) (by simp [ha]) hr, hq]
  | cons r rest => simp [tick_wakeWrite s bs _ r rest (pending_eq_mk hp ha) hq hr, hq]

theorem tick_seq_wakeWait {us : Nat} (hp : s.pending = some p) (ha : p.act = .wait us) (hq : s.seq = .waking) :
    (tick s).seq = .requesting := by
  rw [tick_wakeWait s us _ (pending_eq_mk hp ha) hq, startRequest_seq]

theorem tick_seq_request {bs : List Byte} (hp : s.pending = some p) (ha : p.act = .send bs) (hq : s.seq = .requesting)
    (hr : s.replies = r :: rest) :
    (tick s).seq = if r.accepted then .awaitingResponse else restSeq s.errcnt := by
  rw [tick_request s bs _ r rest (pending_eq_mk hp ha) hq hr, requestAnswered_seq]
  rfl

theorem tick_seq_thinkWait {us : Nat} (hp : s.pending = some p) (ha : p.act = .wait us) (hq : s.seq = .awaitingResponse) :
    (tick s).seq = .awaitingResponse := by
  rw [tick_thinkWait s us _ (pending_eq_mk hp ha) hq, startReceive_seq]
  exact hq

theorem tick_seq_receive_some {n : Nat} {bytes : List Byte} (hp : s.pending = some p) (ha : p.act = .recv n)
    (hr : s.replies = r :: rest) (hd : r.received n = some bytes) : (tick s).seq = .verifying := by
  rw [tick_receive s n _ r rest (pending_eq_mk hp ha) hr, receiveAnswered_seq_some hd]

theorem tick_seq_receive_none {n : Nat} (hp : s.pending = some p) (ha : p.act = .recv n)
    (hr : s.replies = r :: rest) (hd : r.received n = none) : (tick s).seq = restSeq s.errcnt := by
  rw [tick_receive s n _ r rest (pending_eq_mk hp ha) hr, receiveAnswered_seq_none hd]
  rfl

theorem tick_seq_open {addr : BitVec 7} (hp : s.pending = some p) (ha : p.act = .opening addr) (hr : s.replies = r :: rest) :
    (tick s).seq = if r.accepted then .idle else s.seq := by
  rw [tick_open s addr _ r rest (pending_eq_mk hp ha) hr, openAnswered_seq]
  rfl

theorem tick_seq_close (hp : s.pending = some p) (ha : p.act = .close) : (tick s).seq = s.seq := by
  rw [tick_close s _ (pending_eq_mk hp ha), closeAnswered_seq]
  rfl

end Rows

/-! ### `SEQ` after a command other than a read -/

/-- A command whose one move completes it or cannot be made has made that move or none, wherever a reset cuts it (log 29). -/
theorem runCommand_oneMove (n : Nat) (s : State) (h : (tick s).busy = false ∨ tick s = s) :
    runCommand n s = s ∨ runCommand n s = tick s := by
  rcases h with hdone | hhung
  · cases n with
    | zero => exact .inl rfl
    | succ n =>
      cases hb : s.busy with
      | false => exact .inl (runCommand_rest _ s hb)
      | true => exact .inr (by rw [runCommand_succ n s hb, runCommand_rest n _ hdone])
  · exact .inl (runCommand_hung n s hhung)

/-- Where a call of `BusOpen` leaves `SEQ`: only the answer `Ok` changes it, and gives a handle (R117, R120). -/
theorem runOn_opening_seq {s : State} {addr : BitVec 7} {began : Nat} (hp : s.pending = some ⟨.opening addr, began⟩) :
    (runOn s).seq = s.seq ∨ ((runOn s).seq = .idle ∧ (runOn s).opened = true) := by
  cases hr : s.replies with
  | nil =>
    have hhung : tick s = s := tick_unanswered s _ hp (by simp) (by simp) hr
    exact .inl (by rw [runOn, runCommand_hung _ s hhung])
  | cons r rest =>
    have hmove := tick_open s addr began r rest hp hr
    rcases runCommand_oneMove (movesAllowed s) s (.inl (by rw [hmove, openAnswered_busy])) with h | h
    · exact .inl (congrArg State.seq h)
    · rw [runOn, h, hmove]
      cases hok : r.accepted with
      | false => exact .inl rfl
      | true => exact .inr ⟨rfl, rfl⟩

/-- A call of `BusClose` leaves `SEQ` (R118). -/
theorem runOn_closing_seq {s : State} {began : Nat} (hp : s.pending = some ⟨.close, began⟩) : (runOn s).seq = s.seq := by
  have hdone : (tick s).busy = false := by rw [tick_close s began hp]; rfl
  rcases runCommand_oneMove (movesAllowed s) s (.inl hdone) with h | h
  · exact congrArg State.seq h
  · rw [runOn, h, tick_seq_close hp rfl]

theorem exec_close_seq {s t : State} (h : exec .close s = .next t) : t.seq = s.seq := by
  simp only [exec, execClose] at h
  split at h
  · cases h
    exact runOn_closing_seq rfl
  · cases h
    rfl

theorem exec_open_seq {s t : State} {a : Byte} (h : exec (.openBus a) s = .next t) :
    t.seq = s.seq ∨ (t.seq = .idle ∧ t.opened = true) := by
  simp only [exec, execOpen] at h
  split at h
  next => cases h; exact .inl rfl
  next =>
    split at h
    next => cases h; exact .inl rfl
    next => cases h; exact runOn_opening_seq rfl

/-- R141: beside a read, only an `OPEN` that ends with a handle changes `SEQ`. -/
theorem exec_seq {s t : State} {i : Instr} (h : exec i s = .next t) (hread : ∀ a b, i ≠ .readRegs a b) :
    t.seq = s.seq ∨ (t.seq = .idle ∧ t.opened = true ∧ ∃ a, i = .openBus a) := by
  cases i with
  | crcInit => cases h; exact .inl rfl
  | crcByte data => cases h; exact .inl rfl
  | readRegs a b => exact absurd rfl (hread a b)
  | openBus a => exact (exec_open_seq h).imp_right fun ⟨hidle, hopened⟩ => ⟨hidle, hopened, a, rfl⟩
  | close => exact .inl (exec_close_seq h)
  | decodeHum hoff toff => cases h; exact .inl (decodeSample_seq ..)
  | decodeTemp hoff toff => cases h; exact .inl (decodeSample_seq ..)
  | decodeBoth hoff toff => cases h; exact .inl (decodeSample_seq ..)

theorem step_reset {s : State} {after : Nat} {left : Leftover} {rest : List HostAction}
    (hh : s.host = .reset after left :: rest) : step s = .next (hardReset left (s.withHost rest)) := by
  rw [step, hh]

/-! ### The trace of a command in progress -/

@[simp] theorem openAnswered_trace (addr : BitVec 7) (accepted : Bool) (s : State) :
    (openAnswered addr accepted s).trace = s.trace := by
  cases accepted <;> rfl

@[simp] theorem requestAnswered_trace (accepted : Bool) (s : State) : (requestAnswered accepted s).trace = s.trace := by
  cases accepted <;> rfl

@[simp] theorem receiveAnswered_trace (n : Nat) (r : BusReply) (s : State) : (receiveAnswered n r s).trace = s.trace := by
  unfold receiveAnswered
  split <;> rfl

/-- The comparison is no bus activity (R137, R119). -/
@[simp] theorem verify_trace (s : State) : (verify s).trace = s.trace := by
  unfold verify onMismatch
  split_ifs <;> rfl

/-- A move of a command in progress removes nothing from the trace and rewrites nothing in it (R119). -/
theorem move_trace_prefix {s t : State} (h : Move s t) : s.trace <+: t.trace := by
  cases h with
  | hung => exact List.prefix_rfl
  | opened => rw [openAnswered_trace]; exact List.prefix_append _ _
  | closed => exact List.prefix_append _ _
  | woke => exact List.prefix_append _ _
  | ready => exact List.prefix_append _ _
  | asked => rw [requestAnswered_trace]; exact List.prefix_append _ _
  | thought => exact List.prefix_append _ _
  | received => rw [receiveAnswered_trace]; exact List.prefix_append _ _
  | verified => rw [verify_trace]

/-- A command in progress only extends the trace, however far it runs. -/
theorem runCommand_trace_prefix (n : Nat) (s : State) (hp : s.busy = true → inProgress s = true) :
    s.trace <+: (runCommand n s).trace :=
  (runCommand_moves (fun u => s.trace <+: u.trace) (fun _ _ _ _ hu hmove => hu.trans (move_trace_prefix hmove)) n s hp
    List.prefix_rfl).1

/-! ### The entry of a read -/

theorem exec_readRegs_noHandle {s : State} (a b : Byte) (ho : s.opened = false) :
    exec (.readRegs a b) s = .next (s.accept.raise .badState) := by
  simp [exec, execReadRegs, ho]

/-- With a handle and no reset inside it, a read makes all the moves it needs; `ERRCNT` is not looked at (R131). -/
theorem exec_readRegs_handle {s : State} (a b : Byte) (ho : s.opened = true) (hreset : resetNext s = false) :
    exec (.readRegs a b) s = .next (runCommand maxTicks (readEntry a b s.accept)) := by
  rw [← runOn_full (readEntry a b s.accept) hreset]
  simp [exec, execReadRegs, ho]

/-- The first transaction of an attempt is the wake write, recorded whatever its answer (R133). -/
theorem tick_startAttempt_trace {s : State} {r : BusReply} {rest : List BusReply} (hr : s.replies = r :: rest) :
    ∃ e, (tick (startAttempt s)).trace = s.trace ++ [e] ∧ e.act = .send wakeFrame :=
  ⟨_, congrArg State.trace (tick_wakeWrite (startAttempt s) wakeFrame s.now r rest rfl rfl hr), rfl⟩

/-- What an attempt does after its wake write only extends the trace. -/
theorem startAttempt_trace {s : State} {r : BusReply} {rest : List BusReply} (hb : s.busy = true) (ho : s.opened = true)
    (hr : s.replies = r :: rest) (n : Nat) :
    ∃ e more, (runCommand (n + 1) (startAttempt s)).trace = s.trace ++ e :: more ∧ e.act = .send wakeFrame := by
  obtain ⟨e, hfirst, hact⟩ := tick_startAttempt_trace hr
  have hstart : inProgress (startAttempt s) = true := startAttempt_progress s ho
  obtain ⟨more, hmore⟩ := runCommand_trace_prefix n (tick (startAttempt s)) (move_progress (tick_move _ hstart) hstart)
  refine ⟨e, more, ?_, hact⟩
  rw [runCommand_succ n _ (by exact hb), ← hmore, hfirst, List.append_assoc, List.singleton_append]

end Sys2Proof.Machine

namespace Sys2Proof.ProtocolReadProofs
open Sys2Proof.Machine

/-- Settles O18: without a handle the fault of R131; with one the trace of `startAttempt_trace`. -/
theorem readNeedsOnlyTheHandle : Obligations.ReadNeedsOnlyTheHandle := by
  refine fun s a b => ⟨fun ho => ?noHandle, fun ho hr hreset => ?handle⟩
  case noHandle =>
    rw [exec_readRegs_noHandle a b ho]
    exact answers_next _
  case handle =>
    obtain ⟨r, rest, hr⟩ := List.exists_cons_of_ne_nil hr
    obtain ⟨e, more, htrace, hact⟩ :=
      startAttempt_trace (s := { s.accept.clearSample with start := a, count := b, pvalid := false }) rfl ho hr 35
    exact ⟨_, e, more, exec_readRegs_handle a b ho hreset, htrace, hact⟩

/-- Settles O32: row by row of the table of R141, then the commands other than a read and the reset. -/
theorem sequencerFollowsItsTable : Obligations.SequencerFollowsItsTable := by
  refine ⟨fun s a b => rfl, ?noHandle, ?waking, ?requesting, ?thinking, ?receiving, ?verifying, ?unanswered, ?opening, ?closing,
    fun s t i h hread => exec_seq h hread, ?reset⟩
  case noHandle =>
    intro s t a b ho h
    rw [exec_readRegs_noHandle a b ho] at h
    cases h
    rfl
  case waking =>
    exact fun s p hp hq => ⟨fun ⟨_, ha⟩ => tick_seq_wakeWrite hp ha hq, fun ⟨_, ha⟩ => tick_seq_wakeWait hp ha hq⟩
  case requesting =>
    intro s p bs r rest hp ha hq hr
    rw [tick_seq_request hp ha hq hr, restSeq_eq]
    exact ⟨fun hok => if_pos hok, fun hfail => by simp [hfail]⟩
  case thinking => exact fun s p us hp ha hq => tick_seq_thinkWait hp ha hq
  case receiving =>
    refine fun s p n r rest hp ha _ hr => ⟨fun hdata => ?_, fun hfail => ?_⟩
    · obtain ⟨bytes, hd⟩ := Option.ne_none_iff_exists'.mp hdata
      exact tick_seq_receive_some hp ha hr hd
    · rw [tick_seq_receive_none hp ha hr hfail, restSeq_eq]
  case verifying =>
    intro s hp hq
    rw [tick_verify s hp hq]
    exact ⟨verify_seq_match s, verify_seq_mismatch s⟩
  case unanswered => exact fun s p hp hw hc hr => congrArg State.seq (tick_unanswered s p hp hw hc hr)
  case opening => exact fun s p addr r rest hp ha hr => tick_seq_open hp ha hr
  case closing => exact fun s p hp ha => tick_seq_close hp ha
  case reset =>
    intro s t after left rest hh h
    rw [step_reset hh] at h
    cases h
    rfl

/-- Settles O19: the three ends of the comparison, with the threshold written out. -/
theorem verifyFollowsItsRules : Obligations.VerifyFollowsItsRules := by
  refine fun s => ⟨fun hmatch => ?onMatch, fun hmiss hover => ?exhausted, fun hmiss hbelow => ⟨s.now, le_rfl, ?retry⟩⟩
  case onMatch =>
    rw [verify_match s hmatch]
    exact answers_next _
  case exhausted =>
    rw [verify_exhausted s hmiss ((exhausted_iff _).mpr hover)]
    exact answers_next _
  case retry =>
    rw [verify_retry s hmiss ((exhausted_eq_false_iff _).mpr hbelow)]
    exact answers_next _

end Sys2Proof.ProtocolReadProofs
end

section
/-! The decoder: sign and magnitude of a raw temperature (R162), the two-byte field of a verified payload (R160), and the
three ends of `DECODE` (R163). -/

namespace Sys2Proof.Machine

/-! ### Sign and magnitude -/

/-- The sign as a test of the value: `raw` is at least `0x8000`. -/
theorem decTempNeg_eq_decide (raw : Half) : decTempNeg raw = decide (32768 ≤ raw.toNat) := BitVec.msb_eq_decide raw

theorem decTempNeg_eq_getLsbD (raw : Half) : decTempNeg raw = raw.getLsbD 15 := BitVec.msb_eq_getLsbD_last raw

theorem decTempMag_toNat (raw : Half) : (decTempMag raw).toNat = raw.toNat % 32768 := BitVec.extractLsb'_toNat 0 15 raw

/-- Masking bit 15 away is the remainder modulo `0x8000`. -/
theorem toNat_and_7FFF (raw : Half) : (raw &&& 0x7FFF#16).toNat = raw.toNat % 32768 :=
  Nat.and_two_pow_sub_one_eq_mod raw.toNat 15

/-- Sign and magnitude give the raw value back: the split loses nothing. -/
theorem toNat_eq_sign_add_magnitude (raw : Half) :
    raw.toNat = (if decTempNeg raw then 32768 else 0) + (decTempMag raw).toNat := by
  have hraw : raw.toNat < 65536 := raw.isLt
  simp only [decTempNeg_eq_decide, decTempMag_toNat, decide_eq_true_iff]
  split <;> omega

/-! ### `DECODE` -/

/-- R163's range test: a selected field whose second byte is not below `COUNT`. -/
theorem outOfRange_iff (sel : Bool) (off count : Byte) :
    outOfRange sel off count = true ↔ sel = true ∧ count.toNat ≤ off.toNat + 1 := by
  simp [outOfRange, inPayload]

theorem outOfRange_eq_false {sel : Bool} {off count : Byte} (h : sel = true → off.toNat + 1 < count.toNat) :
    outOfRange sel off count = false := by
  rw [Bool.eq_false_iff, ne_eq, outOfRange_iff]
  exact fun ⟨hsel, hover⟩ => (h hsel).not_ge hover

theorem plByte_verified {s : State} {k : Nat} (hp : s.pvalid = true) (hk : k < s.count.toNat) :
    plByte s k = Memory.read s.rxbuf (k + 2) := if_pos ⟨hp, hk⟩

/-- R160 on the verified payload: both bytes come from the buffer, high byte first. -/
theorem field16_verified {s : State} {off : Byte} (hp : s.pvalid = true) (hoff : off.toNat + 1 < s.count.toNat) :
    field16 s off = Memory.read s.rxbuf (off.toNat + 2) ++ Memory.read s.rxbuf (off.toNat + 3) := by
  rw [field16, plByte_verified hp (Nat.lt_of_succ_lt hoff), plByte_verified hp hoff, concat16]

theorem decodeSample_unverified {s : State} (hoff toff : Byte) (selHum selTemp : Bool) (hp : s.pvalid = false) :
    decodeSample hoff toff selHum selTemp s = { s with lasterr := 0x06#8, errphase := 0#4, busy := false } := by
  obtain ⟨-, h⟩ | ⟨hv, -⟩ | ⟨hv, -⟩ := decodeSample_cases hoff toff selHum selTemp s
  · exact h
  · simp [hp] at hv
  · simp [hp] at hv

theorem decodeSample_outOfRange {s : State} {hoff toff : Byte} {selHum selTemp : Bool} (hp : s.pvalid = true)
    (hover : selHum = true ∧ s.count.toNat ≤ hoff.toNat + 1 ∨ selTemp = true ∧ s.count.toNat ≤ toff.toNat + 1) :
    decodeSample hoff toff selHum selTemp s = { s with lasterr := 0x07#8, errphase := 0#4, busy := false } := by
  rw [← outOfRange_iff, ← outOfRange_iff] at hover
  obtain ⟨hv, -⟩ | ⟨-, -, h⟩ | ⟨-, hhum, htemp, -⟩ := decodeSample_cases hoff toff selHum selTemp s
  · simp [hp] at hv
  · exact h
  · simp [hhum, htemp] at hover

/-- What a successful `DECODE` leaves, field by field: the outputs of the selected fields, and the select bits as valid bits. -/
theorem decodeSample_success {s : State} {hoff toff : Byte} {selHum selTemp : Bool} (hp : s.pvalid = true)
    (hhum : selHum = true → hoff.toNat + 1 < s.count.toNat) (htemp : selTemp = true → toff.toNat + 1 < s.count.toNat) :
    decodeSample hoff toff selHum selTemp s =
      { s with
        hum := if selHum then field16 s hoff else s.hum
        tneg := if selTemp then (field16 s toff).getLsbD 15 else s.tneg
        tmag := if selTemp then (field16 s toff).extractLsb' 0 15 else s.tmag
        hvalid := selHum, tvalid := selTemp, lasterr := 0#8, errphase := 0#4, busy := false } := by
  obtain ⟨hv, -⟩ | ⟨-, hover, -⟩ | ⟨-, -, -, h⟩ := decodeSample_cases hoff toff selHum selTemp s
  · simp [hp] at hv
  · simp [outOfRange_eq_false hhum, outOfRange_eq_false htemp] at hover
  · rw [h, ← decTempNeg_eq_getLsbD]
    rfl

theorem exec_decodeHum (a b : Byte) (s : State) : exec (.decodeHum a b) s = .next (decodeSample a b true false s) := rfl

theorem exec_decodeTemp (a b : Byte) (s : State) : exec (.decodeTemp a b) s = .next (decodeSample a b false true s) := rfl

theorem exec_decodeBoth (a b : Byte) (s : State) : exec (.decodeBoth a b) s = .next (decodeSample a b true true s) := rfl

end Sys2Proof.Machine

namespace Sys2Proof.DecoderProofs
open Sys2Proof.Machine

/-- Settles O34: the sign is the top bit, the magnitude the remainder below it, and together they are the raw value. -/
theorem temperatureIsSignMagnitude : Obligations.TemperatureIsSignMagnitude := by
  refine fun raw => ⟨decTempNeg_eq_getLsbD raw, (decTempMag_toNat raw).trans (toNat_and_7FFF raw).symm, fun hpos => ?_,
    toNat_eq_sign_add_magnitude raw, by decide, by decide⟩
  have hsplit := toNat_eq_sign_add_magnitude raw
  rw [decTempNeg_eq_getLsbD, hpos] at hsplit
  simpa using hsplit.symm

/-- Settles O33: each select value ends in one of the three ways of the shared operation. -/
theorem decodeFollowsItsRule : Obligations.DecodeFollowsItsRule := by
  intro s a b
  simp only [exec_decodeHum, exec_decodeTemp, exec_decodeBoth]
  refine ⟨fun hp => ?unverified, fun hp ha => ?humRange, fun hp hb => ?tempRange, fun hp ha => ?hum, fun hp hb => ?temp,
    fun hp ha hb => ?both⟩
  case unverified =>
    simp only [decodeSample_unverified _ _ _ _ hp]
    exact ⟨answers_next _, answers_next _, answers_next _⟩
  case humRange =>
    rw [decodeSample_outOfRange hp (.inl ⟨rfl, ha⟩), decodeSample_outOfRange hp (.inl ⟨rfl, ha⟩)]
    exact ⟨answers_next _, answers_next _⟩
  case tempRange =>
    rw [decodeSample_outOfRange hp (.inr ⟨rfl, hb⟩), decodeSample_outOfRange hp (.inr ⟨rfl, hb⟩)]
    exact ⟨answers_next _, answers_next _⟩
  case hum =>
    rw [decodeSample_success hp (fun _ => ha) (by simp), field16_verified hp ha]
    exact answers_next _
  case temp =>
    rw [decodeSample_success hp (by simp) (fun _ => hb), field16_verified hp hb]
    exact answers_next _
  case both =>
    rw [decodeSample_success hp (fun _ => ha) (fun _ => hb), field16_verified hp ha, field16_verified hp hb]
    exact answers_next _

end Sys2Proof.DecoderProofs
end

section
/-! The block at rest with no action of the host left, and the state a reset leaves (R240, R241). -/

namespace Sys2Proof.Machine

@[simp] theorem hardReset_busy (left : Leftover) (s : State) : (hardReset left s).busy = false := rfl
@[simp] theorem hardReset_host (left : Leftover) (s : State) : (hardReset left s).host = s.host := rfl

/-- The block acts on nothing of its own: not even the clock moves. -/
theorem step_inert {s : State} (hb : s.busy = false) (hh : s.host = []) : step s = .next s := by
  simp [step, hh, hb]

end Sys2Proof.Machine

namespace Sys2Proof.ResetProofs
open Sys2Proof.Machine

/-- Settles O7: a reset leaves the block at rest with the host's queue as it was, so the rule for rest covers it. -/
theorem inertUntilTheHostActs : Obligations.InertUntilTheHostActs := by
  refine ⟨fun s hb hh => ⟨s, step_inert hb hh, rfl⟩, fun left s hh => ?afterReset⟩
  case afterReset =>
    have hrest : (hardReset left s).host = [] := by rw [hardReset_host, hh]
    exact ⟨_, step_inert (hardReset_busy left s) hrest, rfl⟩

end Sys2Proof.ResetProofs
end

section
/-! The command words read back (R60 to R68): the decoder on the word of a command and on the word it came from, and the step
that runs the command of a word. -/

namespace Sys2Proof

/-- The conditions of R62 to R67 met, the select of a `DECODE` picks its row. -/
theorem decodeSelect_eq_ok_iff (a b c : Byte) (i : Instr) : decodeSelect a b c = .ok i ↔
    (c = 1#8 ∧ .decodeHum a b = i) ∨ (c = 2#8 ∧ .decodeTemp a b = i) ∨ (c = 3#8 ∧ .decodeBoth a b = i) := by
  unfold decodeSelect
  split_ifs with h1 h2 h3 h0
  · simp [h1]
  · simp [h2]
  · simp [h3]
  · simp [h0]
  · simp [h1, h2, h3]

/-- A decoder that checks one condition accepts exactly when the condition holds. -/
theorem check_accepts_iff {p : Prop} [Decidable p] {i j : Instr} {r : IllegalWord} :
    (if p then Except.ok i else Except.error r) = Except.ok j ↔ p ∧ i = j := by
  split <;> simp [*]

/-- The word of a command has the command's fields, so each opcode's check passes (R62 to R67). -/
theorem decode_encode (i : Instr) (hwf : i.wf = true) : decode (encode i) = .ok i := by
  cases i with
  | openBus a => simp [encode, decode, (show a.msb = false by simpa [Instr.wf] using hwf)]
  | crcInit => simp [encode, decode]
  | crcByte data => simp [encode, decode]
  | readRegs start count => simp [encode, decode]
  | close => simp [encode, decode]
  | decodeHum hoff toff => simp [encode, decode, decodeSelect]
  | decodeTemp hoff toff => simp [encode, decode, decodeSelect]
  | decodeBoth hoff toff => simp [encode, decode, decodeSelect]

/-- A word with the fields of a command is its word. -/
theorem eq_packWord {w : Word} {op a b c : Byte} (hop : fieldOp w = op) (ha : fieldA w = a) (hb : fieldB w = b)
    (hc : fieldC w = c) : packWord op a b c = w := by
  rw [← hop, ← ha, ← hb, ← hc, pack_fields]

/-- Opcode by opcode, what the decoder has checked is what the encoder writes. -/
theorem encode_of_decode {w : Word} {i : Instr} (h : decode w = .ok i) : encode i = w ∧ i.wf = true := by
  have hlegal : ¬(fieldOp w = 0#8 ∨ 7#8 ≤ fieldOp w) := fun hop => by simp [decode_reserved w hop] at h
  rcases opcode_cases (fieldOp w) with hop | hop | hop | hop | hop | hop | hop | hop
  · exact absurd (.inl hop) hlegal
  · obtain ⟨⟨ha, hb, hc⟩, rfl⟩ : (fieldA w = 0#8 ∧ fieldB w = 0#8 ∧ fieldC w = 0#8) ∧ .crcInit = i := by
      simpa [decode, hop, check_accepts_iff] using h
    exact ⟨eq_packWord hop ha hb hc, rfl⟩
  · obtain ⟨⟨hb, hc⟩, rfl⟩ : (fieldB w = 0#8 ∧ fieldC w = 0#8) ∧ .crcByte (fieldA w) = i := by
      simpa [decode, hop, check_accepts_iff] using h
    exact ⟨eq_packWord hop rfl hb hc, rfl⟩
  · obtain ⟨hc, rfl⟩ : fieldC w = 0#8 ∧ .readRegs (fieldA w) (fieldB w) = i := by
      simpa [decode, hop, check_accepts_iff] using h
    exact ⟨eq_packWord hop rfl rfl hc, rfl⟩
  · have hseven : (fieldA w).msb = false := by
      by_contra ha
      have hrefuses := (decode_open_refuses_iff w hop).mpr (.inl ((addressBit_eq_one_iff _).mpr (by simpa using ha)))
      simp [h] at hrefuses
    obtain ⟨⟨hb, hc⟩, rfl⟩ : (fieldB w = 0#8 ∧ fieldC w = 0#8) ∧ .openBus (fieldA w) = i := by
      simpa [decode, hop, hseven, check_accepts_iff] using h
    exact ⟨eq_packWord hop rfl hb hc, by simp [Instr.wf, hseven]⟩
  · obtain ⟨⟨ha, hb, hc⟩, rfl⟩ : (fieldA w = 0#8 ∧ fieldB w = 0#8 ∧ fieldC w = 0#8) ∧ .close = i := by
      simpa [decode, hop, check_accepts_iff] using h
    exact ⟨eq_packWord hop ha hb hc, rfl⟩
  · have hselect : decodeSelect (fieldA w) (fieldB w) (fieldC w) = .ok i := by simpa [decode, hop] using h
    obtain ⟨hc, rfl⟩ | ⟨hc, rfl⟩ | ⟨hc, rfl⟩ := (decodeSelect_eq_ok_iff ..).mp hselect <;>
      exact ⟨eq_packWord hop rfl rfl hc, rfl⟩
  · exact absurd (.inr hop) hlegal

end Sys2Proof

namespace Sys2Proof.Machine

theorem runWord_ok {w : Word} {i : Instr} (h : decode w = .ok i) (s : State) : runWord w s = exec i s := by
  simp [runWord, h]

/-- At rest the host's word runs the command it stands for (R60). -/
theorem step_command {s : State} {w : Word} {rest : List HostAction} {i : Instr} (hb : s.busy = false)
    (hh : s.host = .issue w :: rest) (hw : decode w = .ok i) : step s = exec i (takeCommand rest s) :=
  (step_issue hb hh).trans (runWord_ok hw _)

end Sys2Proof.Machine

namespace Sys2Proof.EncodingProofs
open Sys2Proof.Machine

/-- Settles O1: the decoder run on each of the eight words. -/
theorem specWordsDecode : Obligations.SpecWordsDecode := by
  unfold Obligations.SpecWordsDecode
  decide

/-- Settles O2: each opcode's check passes on the fields the encoder wrote. -/
theorem decodeEncodeRoundTrip : Obligations.DecodeEncodeRoundTrip := decode_encode

/-- Settles O3: opcode by opcode the checks of the decoder fix the fields that are no operands. -/
theorem decodedWordIsTheEncodedOne : Obligations.DecodedWordIsTheEncodedOne := fun _ _ => encode_of_decode

/-- Settles O5: around `exec` there is only the taking of the word. -/
theorem stepRunsTheDecodedCommand : Obligations.StepRunsTheDecodedCommand :=
  fun s _ rest _ hh hb hw => ⟨step_command hb hh hw, rfl, takeCommand_now_le rest s⟩

end Sys2Proof.EncodingProofs
end

section
/-! The invariant of the machine (R15, R16, R20 to R25, R116, R119, R141): the part of it that holds between two moves of a
command too, the two ways a state meets the rest of it, and then every step. -/

namespace Sys2Proof.Machine

/-! ### The timed trace -/

theorem TraceTimed.nil (now : Nat) : TraceTimed [] now := ⟨by simp, by simp, by simp⟩

theorem TraceTimed.later {trace : List BusEvent} {now now' : Nat} (h : TraceTimed trace now) (hnow : now ≤ now') :
    TraceTimed trace now' :=
  ⟨h.events, h.apart, fun e he => (h.past e he).trans hnow⟩

/-- An event that begins after all others have ended may stand behind them. -/
theorem TraceTimed.append {trace : List BusEvent} {now now' : Nat} {e : BusEvent} (h : TraceTimed trace now) (he : e.timed)
    (hafter : ∀ d ∈ trace, d.ended ≤ e.began) (hnow : e.ended ≤ now') : TraceTimed (trace ++ [e]) now' where
  events d hd := by
    rcases List.mem_append.mp hd with hd | hd
    · exact h.events d hd
    · rw [List.mem_singleton.mp hd]; exact he
  apart := List.pairwise_append.mpr ⟨h.apart, List.pairwise_singleton .., by simpa using hafter⟩
  past d hd := by
    rcases List.mem_append.mp hd with hd | hd
    · exact ((hafter d hd).trans he.1).trans hnow
    · rw [List.mem_singleton.mp hd]; exact hnow

/-! ### The part of the invariant that speaks of no command in progress -/

/-- What holds of the buffer, the outputs, the completion fields and the trace at every moment, inside a move too. -/
structure Sound (s : State) : Prop where
  memory : Memory.wf s.rxbuf
  verified : s.pvalid = true →
    crc16 (checkedBytes s.rxbuf s.count) = rxCrc s.rxbuf s.count ∧ s.rxlen = BitVec.ofNat 9 (responseLen s.count)
  decoded : s.hvalid = true ∨ s.tvalid = true → s.pvalid = true
  codes : s.lasterr ∈ [0x00#8, 0x01#8, 0x02#8, 0x04#8, 0x05#8, 0x06#8, 0x07#8]
  phases : if s.lasterr = 0x01#8 then s.errphase ∈ [1#4, 2#4, 3#4] else s.errphase = 0#4
  timed : TraceTimed s.trace s.now

theorem Inv.sound {s : State} (h : Inv s) : Sound s := ⟨h.memory, h.verified, h.decoded, h.codes, h.phases, h.timed⟩

theorem Sound.completeOk {s : State} (h : Sound s) : Sound s.completeOk :=
  ⟨h.memory, h.verified, h.decoded, by simp, by simp, h.timed⟩

theorem Sound.raise {s : State} {f : CmdFault} (h : Sound s)
    (hcode : f.code ∈ [0x00#8, 0x01#8, 0x02#8, 0x04#8, 0x05#8, 0x06#8, 0x07#8])
    (hphase : if f.code = 0x01#8 then f.phase ∈ [1#4, 2#4, 3#4] else f.phase = 0#4) : Sound (s.raise f) :=
  ⟨h.memory, h.verified, h.decoded, hcode, hphase, h.timed⟩

/-- With nothing verified and nothing decoded, `START` and `COUNT` are free (R132). -/
theorem Sound.cleared {s : State} (h : Sound s) (start count : Byte) :
    Sound { s.clearSample with start := start, count := count, pvalid := false } :=
  ⟨h.memory, by simp, by simp, h.codes, h.phases, h.timed⟩

/-- With nothing verified the buffer may hold any canonical contents. -/
theorem Sound.overwritten {s : State} (h : Sound s) (hp : s.pvalid = false) {m : Memory} (hm : Memory.wf m) (len : BitVec 9) :
    Sound { s with rxbuf := m, rxlen := len } :=
  ⟨hm, by simp [hp], h.decoded, h.codes, h.phases, h.timed⟩

/-- A call that has lasted at least what it waits for ends after all before it (R116, R119). -/
theorem Sound.endAct {s : State} {p : Pending} {us : Nat} (h : Sound s) (answer : Option BusAnswer)
    (hsince : p.began ≤ s.now ∧ ∀ e ∈ s.trace, e.ended ≤ p.began) (hwait : ∀ n, p.act = .wait n → n ≤ us) :
    Sound ((s.pass us).endAct p answer) := by
  obtain ⟨hbegan, hafter⟩ := hsince
  refine ⟨h.memory, h.verified, h.decoded, h.codes, h.phases, h.timed.append ⟨?_, fun n hn _ => ?_⟩ hafter le_rfl⟩
  · simp; omega
  · have := hwait n hn
    simp; omega

theorem Sound.heard {s : State} {p : Pending} (h : Sound s) (r : BusReply) (rest : List BusReply)
    (hsince : p.began ≤ s.now ∧ ∀ e ∈ s.trace, e.ended ≤ p.began) (hwait : ∀ n, p.act ≠ .wait n) :
    Sound (s.heard p r rest) :=
  Sound.endAct (s := { s with replies := rest }) ⟨h.memory, h.verified, h.decoded, h.codes, h.phases, h.timed⟩ _ hsince
    (fun n hn => absurd hn (hwait n))

/-! ### The two ways to meet the rest of it -/

theorem restSeq_resting (e : Byte) : restSeq e = .idle ∨ restSeq e = .fatal := by
  unfold restSeq
  split <;> simp

theorem restSeq_zero : restSeq 0#8 = .idle := by decide

/-- At rest only the resting rule remains (R16). -/
theorem Sound.atRest {s : State} (h : Sound s) (hb : s.busy = false) (hp : s.pending = none) (hq : s.seq = restSeq s.errcnt) :
    Inv s := by
  have hrest : s.seq = .idle ∨ s.seq = .fatal := hq ▸ restSeq_resting s.errcnt
  have hsince : ∀ p, s.pending = some p → p.began ≤ s.now ∧ ∀ e ∈ s.trace, e.ended ≤ p.began := by simp [hp]
  have hbusy : s.busy = true → inProgress s = true := by simp [hb]
  exact ⟨h.memory, fun _ => hp, fun _ => hrest, fun _ => hq, hbusy, h.verified,
    fun hv => by simp [hv] at hrest, fun hi hf => absurd hrest (by simp [hi, hf]), h.decoded, h.codes, h.phases, h.timed, hsince⟩

/-- Inside a read nothing is verified, and the comparison follows a whole frame (R132, R136). -/
theorem Sound.inRead {s : State} (h : Sound s) (hb : s.busy = true) (hprog : inProgress s = true) (hi : s.seq ≠ .idle)
    (hf : s.seq ≠ .fatal) (hpv : s.pvalid = false)
    (hrec : s.seq = .verifying → s.rxlen = BitVec.ofNat 9 (responseLen s.count))
    (hsince : ∀ p, s.pending = some p → p.began ≤ s.now ∧ ∀ e ∈ s.trace, e.ended ≤ p.began) : Inv s := by
  have hseq : ¬(s.seq = .idle ∨ s.seq = .fatal) := by simp [hi, hf]
  exact ⟨h.memory, by simp [hb], by simp [hb], fun hq => absurd hq hseq, fun _ => hprog, h.verified, hrec, fun _ _ => hpv,
    h.decoded, h.codes, h.phases, h.timed, hsince⟩

/-- A call that begins now is after every event of the trace. -/
theorem Sound.begun {s : State} (h : Sound s) (act : BusAct) (p : Pending) (hp : (s.beginAct act).pending = some p) :
    p.began ≤ (s.beginAct act).now ∧ ∀ e ∈ (s.beginAct act).trace, e.ended ≤ p.began := by
  cases hp
  exact ⟨le_rfl, h.timed.past⟩

theorem Sound.beginAct {s : State} (h : Sound s) (act : BusAct) : Sound (s.beginAct act) :=
  ⟨h.memory, h.verified, h.decoded, h.codes, h.phases, h.timed⟩

/-- A read that goes on to its next call. -/
theorem Sound.nextCall {s : State} (h : Sound s) (act : BusAct) (hb : s.busy = true) (hprog : inProgress (s.beginAct act) = true)
    (hi : s.seq ≠ .idle) (hf : s.seq ≠ .fatal) (hv : s.seq ≠ .verifying) (hpv : s.pvalid = false) : Inv (s.beginAct act) :=
  (h.beginAct act).inRead hb hprog hi hf hpv (fun hq => absurd hq hv) (h.begun act)

/-! ### Every move of a command in progress -/

/-- `BusOpen` answered (R117): the counter is cleared with the resting state, or both are left. -/
theorem Sound.openAnswered {s : State} (h : Sound s) (addr : BitVec 7) (accepted : Bool) (hp : s.pending = none)
    (hq : s.seq = restSeq s.errcnt) : Inv (openAnswered addr accepted s) := by
  cases accepted with
  | false => exact (h.raise (f := .transportError 1#4) (by decide) (by decide)).atRest rfl hp hq
  | true =>
    have hc := h.cleared s.start s.count
    exact Sound.atRest (s := Machine.openAnswered addr true s)
      ⟨hc.memory, hc.verified, hc.decoded, .head _, rfl, hc.timed⟩ rfl hp restSeq_zero.symm

/-- A read that ends in a `TransportError` (R134, R136). -/
theorem Sound.transportError {s : State} (h : Sound s) (phase : BitVec 4) (hphase : phase ∈ [1#4, 2#4, 3#4])
    (hp : s.pending = none) : Inv (s.settle.raise (.transportError phase)) := by
  have hs : Sound s.settle := ⟨h.memory, h.verified, h.decoded, h.codes, h.phases, h.timed⟩
  exact (hs.raise (f := .transportError phase) (by simp [CmdFault.code]) (by simpa [CmdFault.code, CmdFault.phase] using hphase)).atRest
    rfl hp rfl

/-- An attempt begins (R133). -/
theorem Sound.startAttempt {s : State} (h : Sound s) (hb : s.busy = true) (ho : s.opened = true) (hpv : s.pvalid = false) :
    Inv (startAttempt s) := by
  have hs : Sound { s with seq := .waking } := ⟨h.memory, h.verified, h.decoded, h.codes, h.phases, h.timed⟩
  exact hs.nextCall (.send wakeFrame) hb (startAttempt_progress s ho) (by simp) (by simp) (by simp) hpv

/-- The three ends of the comparison (R138, R139). -/
theorem Inv.verify {s : State} (h : Inv s) (hb : s.busy = true) (hp : s.pending = none) (ho : s.opened = true)
    (hq : s.seq = .verifying) : Inv (verify s) := by
  have hpv : s.pvalid = false := h.reading (by simp [hq]) (by simp [hq])
  by_cases hsum : crc16 (checkedBytes s.rxbuf s.count) = rxCrc s.rxbuf s.count
  · rw [verify_match s hsum]
    exact Sound.atRest ⟨h.memory, fun _ => ⟨hsum, h.received hq⟩, fun _ => rfl, .head _, rfl, h.timed⟩ rfl hp restSeq_zero.symm
  · cases hover : exhausted (satInc s.errcnt) with
    | true =>
      rw [verify_exhausted s hsum hover]
      have hs : Sound { s with
          crc := crc16 (checkedBytes s.rxbuf s.count), errcnt := satInc s.errcnt, seq := .fatal } :=
        ⟨h.memory, h.verified, h.decoded, h.codes, h.phases, h.timed⟩
      exact (hs.raise (f := .protocolExhausted) (by decide) (by decide)).atRest rfl hp (by simp [restSeq, hover])
    | false =>
      rw [verify_retry s hsum hover]
      exact Sound.startAttempt ⟨h.memory, h.verified, h.decoded, h.codes, h.phases, h.timed⟩ hb ho hpv

/-- The receive answered (R136): a whole frame makes the comparison due, a failure ends the read. -/
theorem Sound.receiveAnswered {s : State} (h : Sound s) (r : BusReply) (hb : s.busy = true) (ho : s.opened = true)
    (hp : s.pending = none) (hpv : s.pvalid = false) : Inv (receiveAnswered (responseLen s.count) r s) := by
  unfold Machine.receiveAnswered
  split
  next bytes hbytes =>
    have hfits : 0 + bytes.length ≤ Config.rxbufBytes := by
      have hcount := s.count.isLt
      rw [received_length hbytes]
      simp only [responseLen, Config.rxbufBytes]
      omega
    have hs := h.overwritten hpv (Memory.wf_writeBytes _ 0 bytes h.memory hfits) (BitVec.ofNat 9 (responseLen s.count))
    exact Sound.inRead ⟨hs.memory, hs.verified, hs.decoded, hs.codes, hs.phases, hs.timed⟩ hb (by simp [inProgress, hp, ho])
      (by simp) (by simp) hpv (fun _ => rfl) (by simp [hp])
  next => exact (h.overwritten hpv (Memory.wf_scramble _ _ h.memory) r.junkLen).transportError 3#4 (by simp) hp

/-- Row by row of R141 and for the two bus commands. -/
theorem Inv.move {s t : State} (h : Inv s) (hb : s.busy = true) (hmove : Move s t) : Inv t := by
  have hprog := move_progress hmove (h.executing hb)
  have hreading := h.reading
  cases hmove with
  | hung => exact h
  | opened addr began r rest hp hr ho hq =>
    exact (h.sound.heard r rest (h.since _ hp) (by simp)).openAnswered addr _ rfl (h.settled hq)
  | closed began hp ho hq =>
    have hs := h.sound.endAct (us := 0) (some .ok) (h.since _ hp) (by simp)
    exact Sound.atRest (s := closeAnswered _) ⟨hs.memory, hs.verified, hs.decoded, .head _, rfl, hs.timed⟩ rfl rfl
      (h.settled hq)
  | woke began r rest hp hr ho hq =>
    rw [hq] at hreading
    exact (h.sound.heard r rest (h.since _ hp) (by simp)).nextCall _ hb (hprog hb) (by simp [hq]) (by simp [hq]) (by simp [hq])
      (hreading (by simp) (by simp))
  | ready began hp ho hq =>
    rw [hq] at hreading
    have hs := h.sound.endAct (us := Config.wakeMicros) none (h.since _ hp) (by simp)
    exact Sound.nextCall (s := { (s.pass Config.wakeMicros).endAct _ none with seq := .requesting })
      ⟨hs.memory, hs.verified, hs.decoded, hs.codes, hs.phases, hs.timed⟩ _ hb (hprog hb) (by simp) (by simp) (by simp)
      (hreading (by simp) (by simp))
  | asked began r rest hp hr ho hq =>
    rw [hq] at hreading
    have hs := h.sound.heard r rest (h.since _ hp) (by simp)
    cases hok : r.accepted with
    | false => exact hs.transportError 2#4 (by simp) rfl
    | true =>
      rw [hok] at hprog
      exact Sound.nextCall (s := { s.heard _ r rest with seq := .awaitingResponse })
        ⟨hs.memory, hs.verified, hs.decoded, hs.codes, hs.phases, hs.timed⟩ _ hb (hprog hb) (by simp) (by simp) (by simp)
        (hreading (by simp) (by simp))
  | thought began hp ho hq =>
    rw [hq] at hreading
    exact (h.sound.endAct (us := Config.thinkMicros) none (h.since _ hp) (by simp)).nextCall _ hb (hprog hb) (by simp [hq])
      (by simp [hq]) (by simp [hq]) (hreading (by simp) (by simp))
  | received began r rest hp hr ho hq =>
    rw [hq] at hreading
    exact (h.sound.heard r rest (h.since _ hp) (by simp)).receiveAnswered r hb ho rfl (hreading (by simp) (by simp))
  | verified hp ho hq => exact h.verify hb hp ho hq

theorem Inv.runCommand {s : State} (h : Inv s) (n : Nat) : Inv (runCommand n s) :=
  (runCommand_moves Inv (fun _ _ hb _ hu hmove => hu.move hb hmove) n s h.executing h).1

/-! ### Every command and every step -/

theorem Inv.restSeq_eq {s : State} (h : Inv s) (hb : s.busy = false) : s.seq = restSeq s.errcnt := h.settled (h.resting hb)

/-- A command that ends at once with a fault leaves the resting rule. -/
theorem Inv.raise {s : State} {f : CmdFault} (h : Inv s) (hb : s.busy = false)
    (hcode : f.code ∈ [0x00#8, 0x01#8, 0x02#8, 0x04#8, 0x05#8, 0x06#8, 0x07#8])
    (hphase : if f.code = 0x01#8 then f.phase ∈ [1#4, 2#4, 3#4] else f.phase = 0#4) : Inv (s.accept.raise f) :=
  Sound.atRest ⟨h.memory, h.verified, h.decoded, hcode, hphase, h.timed⟩ rfl (h.quiet hb) (h.restSeq_eq hb)

/-- A `DECODE` writes outputs only from a verified payload (R163). -/
theorem Inv.decodeSample {s : State} (h : Inv s) (hb : s.busy = false) (hoff toff : Byte) (selHum selTemp : Bool) :
    Inv (decodeSample hoff toff selHum selTemp s) := by
  obtain ⟨-, heq⟩ | ⟨-, -, heq⟩ | ⟨hpv, -, -, heq⟩ := decodeSample_cases hoff toff selHum selTemp s
  · rw [heq]; exact h.raise hb (by decide) (by decide)
  · rw [heq]; exact h.raise hb (by decide) (by decide)
  · rw [heq]
    exact Sound.atRest ⟨h.memory, h.verified, fun _ => hpv, .head _, rfl, h.timed⟩ rfl (h.quiet hb) (h.restSeq_eq hb)

/-- A bus command that begins leaves the resting rule and what is verified. -/
theorem Inv.beginCommand {s : State} (h : Inv s) (hb : s.busy = false) (act : BusAct)
    (hprog : inProgress (s.accept.beginAct act) = true) : Inv (s.accept.beginAct act) where
  memory := h.memory
  quiet := by simp
  resting := by simp
  settled := h.settled
  executing _ := hprog
  verified := h.verified
  received hq := by have := h.resting hb; simp_all
  reading hi hf := absurd (h.resting hb) (by simp_all)
  decoded := h.decoded
  codes := h.codes
  phases := h.phases
  timed := h.timed
  since p hp := by cases hp; exact ⟨le_rfl, h.timed.past⟩

/-- The entry of a read (R132). -/
theorem Inv.readEntry {s : State} (h : Inv s) (ho : s.opened = true) (a b : Byte) : Inv (readEntry a b s.accept) := by
  have hs : Sound s.accept := ⟨h.memory, h.verified, h.decoded, h.codes, h.phases, h.timed⟩
  exact (hs.cleared a b).startAttempt rfl ho rfl

theorem inProgress_opening {s : State} {addr : BitVec 7} {began : Nat} (hp : s.pending = some ⟨.opening addr, began⟩)
    (hq : s.seq = .idle ∨ s.seq = .fatal) (ho : s.opened = false) : inProgress s = true := by
  rcases hq with hq | hq <;> simp [inProgress, hp, hq, ho]

theorem inProgress_closing {s : State} {began : Nat} (hp : s.pending = some ⟨.close, began⟩)
    (hq : s.seq = .idle ∨ s.seq = .fatal) (ho : s.opened = true) : inProgress s = true := by
  rcases hq with hq | hq <;> simp [inProgress, hp, hq, ho]

/-- `OPEN` begins its transaction or ends with a fault at once (R117). -/
theorem exec_open_cases {s t : State} {a : Byte} (h : exec (.openBus a) s = .next t) :
    t = s.accept.raise .cmdIllegal ∨ (s.opened = true ∧ t = s.accept.raise .badState)
      ∨ (s.opened = false ∧ t = runOn (s.accept.beginAct (.opening (addr7 a)))) := by
  simp only [exec, execOpen] at h
  split at h
  next => cases h; exact .inl rfl
  next =>
    split at h
    next ho => cases h; exact .inr (.inl ⟨ho, rfl⟩)
    next ho => cases h; exact .inr (.inr ⟨by simpa using ho, rfl⟩)

/-- `CLOSE` begins its transaction or has nothing to close (R118). -/
theorem exec_close_cases {s t : State} (h : exec .close s = .next t) :
    (s.opened = true ∧ t = runOn (s.accept.beginAct .close))
      ∨ (s.opened = false ∧ t = { s with lasterr := 0#8, errphase := 0#4, busy := false }) := by
  simp only [exec, execClose] at h
  split at h
  next ho => cases h; exact .inl ⟨ho, rfl⟩
  next ho =>
    have ho : s.opened = false := by simpa using ho
    cases h
    refine .inr ⟨ho, ?_⟩
    obtain ⟨⟩ := s
    cases ho
    rfl

/-- `READ_REGS` begins an attempt or is refused (R131). -/
theorem exec_readRegs_cases {s t : State} {a b : Byte} (h : exec (.readRegs a b) s = .next t) :
    (s.opened = true ∧ t = runOn (readEntry a b s.accept)) ∨ (s.opened = false ∧ t = s.accept.raise .badState) := by
  simp only [exec, execReadRegs] at h
  split at h
  next ho => cases h; exact .inl ⟨ho, rfl⟩
  next ho => cases h; exact .inr ⟨by simpa using ho, rfl⟩

/-- Every command taken at rest keeps the invariant. -/
theorem Inv.exec {s t : State} {i : Instr} (h : Inv s) (hb : s.busy = false) (hx : exec i s = .next t) : Inv t := by
  cases i with
  | crcInit =>
    cases hx
    exact Sound.atRest ⟨h.memory, h.verified, h.decoded, .head _, rfl, h.timed⟩ rfl (h.quiet hb) (h.restSeq_eq hb)
  | crcByte data =>
    cases hx
    exact Sound.atRest ⟨h.memory, h.verified, h.decoded, .head _, rfl, h.timed⟩ rfl (h.quiet hb) (h.restSeq_eq hb)
  | readRegs a b =>
    obtain ⟨ho, rfl⟩ | ⟨-, rfl⟩ := exec_readRegs_cases hx
    · exact (h.readEntry ho a b).runCommand _
    · exact h.raise hb (by decide) (by decide)
  | openBus a =>
    obtain rfl | ⟨-, rfl⟩ | ⟨ho, rfl⟩ := exec_open_cases hx
    · exact h.raise hb (by decide) (by decide)
    · exact h.raise hb (by decide) (by decide)
    · exact (h.beginCommand hb _ (inProgress_opening rfl (h.resting hb) ho)).runCommand _
  | close =>
    obtain ⟨ho, rfl⟩ | ⟨ho, rfl⟩ := exec_close_cases hx
    · exact (h.beginCommand hb _ (inProgress_closing rfl (h.resting hb) ho)).runCommand _
    · exact Sound.atRest ⟨h.memory, h.verified, h.decoded, .head _, rfl, h.timed⟩ rfl (h.quiet hb) (h.restSeq_eq hb)
  | decodeHum hoff toff => cases hx; exact h.decodeSample hb ..
  | decodeTemp hoff toff => cases hx; exact h.decodeSample hb ..
  | decodeBoth hoff toff => cases hx; exact h.decodeSample hb ..

/-- The invariant speaks of the block, not of the host, and time may pass at rest. -/
theorem Inv.around {s : State} (h : Inv s) (hb : s.busy = false) (host : List HostAction) (results : List HostResult)
    {now : Nat} (draws : Nat) (hnow : s.now ≤ now) :
    Inv { s with host := host, results := results, now := now, draws := draws } :=
  Sound.atRest ⟨h.memory, h.verified, h.decoded, h.codes, h.phases, h.timed.later hnow⟩ hb (h.quiet hb) (h.restSeq_eq hb)

theorem Inv.takeCommand {s : State} (h : Inv s) (hb : s.busy = false) (rest : List HostAction) : Inv (takeCommand rest s) :=
  h.around hb rest s.results _ (takeCommand_now_le rest s)

/-- A word at rest, legal or not, keeps the invariant (R60, R68). -/
theorem Inv.runWord {s t : State} {w : Word} (h : Inv s) (hb : s.busy = false) (hw : runWord w s = .next t) : Inv t := by
  unfold Machine.runWord at hw
  split at hw
  next => exact h.exec hb hw
  next => cases hw; exact h.raise hb (by decide) (by decide)

/-- The trace a reset leaves: a call cut short is no wait that has to have lasted (R240). -/
theorem Inv.cutTrace {s : State} (h : Inv s) : TraceTimed (cutTrace (s.pass 0)) (s.pass 0).now := by
  unfold Machine.cutTrace
  split
  next => exact h.timed.later (by simp)
  next p hp =>
    obtain ⟨hbegan, hafter⟩ := h.since p hp
    exact h.timed.append ⟨by simp; omega, by simp⟩ hafter le_rfl

/-- A reset meets the invariant from any state of it (R30, R240). -/
theorem Inv.hardReset {s : State} (h : Inv s) (left : Leftover) (rest : List HostAction) :
    Inv (hardReset left (s.withHost rest)) :=
  Sound.atRest ⟨Memory.wf_scramble _ _ Memory.wf_nil, by simp [Machine.hardReset], by simp [Machine.hardReset],
    by simp [Machine.hardReset], rfl, h.cutTrace⟩ rfl rfl rfl

theorem resumeCommand_next {s t : State} (h : resumeCommand s = .next t) : inProgress s = true ∧ t = runCommand maxTicks s := by
  unfold resumeCommand at h
  split at h
  next hp => cases h; exact ⟨hp, rfl⟩
  next => cases h

theorem Inv.step {s t : State} (h : Inv s) (hstep : step s = .next t) : Inv t := by
  obtain ⟨after, left, rest, -, rfl⟩ | ⟨hb, hresume⟩ | ⟨-, -, rfl⟩ | ⟨hb, w, rest, -, hw⟩ | ⟨hb, a, rest, -, ha⟩ :=
    step_cases hstep
  · exact h.hardReset left rest
  · rw [(resumeCommand_next hresume).2]
    exact h.runCommand _
  · exact h
  · exact (h.takeCommand hb rest).runWord hb hw
  · obtain ⟨heq, hnow⟩ := hostAct_frame ha
    rw [heq]
    exact h.around hb _ _ _ hnow

end Sys2Proof.Machine

namespace Sys2Proof.InvariantProofs
open Sys2Proof.Machine

/-- Settles O43: at reset the block rests, and nothing is verified, decoded or recorded. -/
theorem invariantAtReset : Obligations.InvariantAtReset :=
  Sound.atRest ⟨Memory.wf_nil, by simp [State.reset], by simp [State.reset], .head _, rfl,
    .nil _⟩ rfl rfl restSeq_zero.symm

/-- Settles O44: a reset, the moves of the command in progress, a word at rest and the host's other actions each keep it. -/
theorem stepKeepsInvariant : Obligations.StepKeepsInvariant := fun _ _ h hstep => h.step hstep

end Sys2Proof.InvariantProofs
end

section
/-! The cadence of the bus (R145): one event more on the trace against one move more of the sequencer. -/

namespace Sys2Proof.Machine

theorem cadence_append (trace : List BusEvent) (e : BusEvent) : cadence (trace ++ [e]) = (cadence trace).next e := by
  simp [cadence]

/-- With no call in progress the block is outside every attempt. -/
theorem cadencePlace_quiet {s : State} (hp : s.pending = none) : cadencePlace s = .outside := by
  simp [cadencePlace, hp]

/-- One event more, as the place before allows it, with the sequencer at the place after. -/
theorem InCadence.extend {s t : State} {e : BusEvent} (h : InCadence s) (htrace : t.trace = s.trace ++ [e])
    (hnext : (cadencePlace s).next e = cadencePlace t) : InCadence t := by
  rw [InCadence, htrace, cadence_append, h, hnext]

/-- No event, and the place is the same. -/
theorem InCadence.stay {s t : State} (h : InCadence s) (htrace : t.trace = s.trace) (hplace : cadencePlace s = cadencePlace t) :
    InCadence t := by
  rw [InCadence, htrace, h, hplace]

@[simp] theorem openAnswered_pending (addr : BitVec 7) (accepted : Bool) (s : State) :
    (openAnswered addr accepted s).pending = s.pending := by
  cases accepted <;> rfl

@[simp] theorem receiveAnswered_pending (n : Nat) (r : BusReply) (s : State) :
    (receiveAnswered n r s).pending = s.pending := by
  unfold receiveAnswered
  split <;> rfl

/-- The comparison ends outside, or with the wake write of the next attempt not yet answered (R138). -/
theorem cadencePlace_verify (s : State) (hp : s.pending = none) : cadencePlace (verify s) = .outside := by
  by_cases hsum : crc16 (checkedBytes s.rxbuf s.count) = rxCrc s.rxbuf s.count
  · rw [verify_match s hsum]
    exact cadencePlace_quiet hp
  · cases hover : exhausted (satInc s.errcnt) with
    | true => rw [verify_exhausted s hsum hover]; exact cadencePlace_quiet hp
    | false => rw [verify_retry s hsum hover]; rfl

/-- Every move adds the event its place allows, and goes to the place behind it. -/
theorem InCadence.move {s t : State} (h : InCadence s) (hmove : Move s t) : InCadence t := by
  cases hmove with
  | hung => exact h
  | opened addr began r rest hp hr ho hq =>
    refine h.extend (openAnswered_trace ..) ?_
    rw [cadencePlace_quiet (s := openAnswered ..) (openAnswered_pending ..)]
    simp [cadencePlace, hp, Cadence.next, Cadence.after]
  | closed began hp ho hq =>
    refine h.extend rfl ?_
    rw [cadencePlace_quiet (s := closeAnswered _) rfl]
    simp [cadencePlace, hp, Cadence.next, Cadence.after]
  | woke began r rest hp hr ho hq =>
    refine h.extend rfl ?_
    simp [cadencePlace, hp, hq, Cadence.next, Cadence.after]
  | ready began hp ho hq =>
    refine h.extend rfl ?_
    simp [cadencePlace, hp, hq, Cadence.next, Cadence.after, startRequest]
  | asked began r rest hp hr ho hq =>
    refine h.extend (requestAnswered_trace ..) ?_
    cases hok : r.accepted <;>
      simp [cadencePlace, hp, hq, hok, Cadence.next, Cadence.after, requestAnswered, requestFrame, answerOf, startThink]
  | thought began hp ho hq =>
    refine h.extend rfl ?_
    simp [cadencePlace, hp, hq, Cadence.next, Cadence.after, startReceive]
  | received began r rest hp hr ho hq =>
    refine h.extend (receiveAnswered_trace ..) ?_
    rw [cadencePlace_quiet (s := receiveAnswered ..) (receiveAnswered_pending ..)]
    simp [cadencePlace, hp, hq, Cadence.next, Cadence.after]
  | verified hp ho hq => exact h.stay (verify_trace s) (by rw [cadencePlace_quiet hp, cadencePlace_verify s hp])

theorem InCadence.runCommand {s : State} (h : InCadence s) (n : Nat) (hp : s.busy = true → inProgress s = true) :
    InCadence (runCommand n s) :=
  (runCommand_moves InCadence (fun _ _ _ _ hu hmove => hu.move hmove) n s hp h).1

/-- What changes neither the trace nor the absence of a call keeps the cadence. -/
theorem InCadence.quiet {s t : State} (h : InCadence s) (htrace : t.trace = s.trace) (hp : s.pending = none)
    (hp' : t.pending = none) : InCadence t :=
  h.stay htrace (by rw [cadencePlace_quiet hp, cadencePlace_quiet hp'])

@[simp] theorem decodeSample_trace (hoff toff : Byte) (selHum selTemp : Bool) (s : State) :
    (decodeSample hoff toff selHum selTemp s).trace = s.trace := by
  unfold decodeSample
  split_ifs <;> rfl

@[simp] theorem decodeSample_pending (hoff toff : Byte) (selHum selTemp : Bool) (s : State) :
    (decodeSample hoff toff selHum selTemp s).pending = s.pending := by
  unfold decodeSample
  split_ifs <;> rfl

/-- A command begins outside every attempt, and so does its first call. -/
theorem InCadence.exec {s t : State} {i : Instr} (h : InCadence s) (hinv : Inv s) (hb : s.busy = false)
    (hx : exec i s = .next t) : InCadence t := by
  have hp := hinv.quiet hb
  cases i with
  | crcInit => cases hx; exact h.quiet rfl hp hp
  | crcByte data => cases hx; exact h.quiet rfl hp hp
  | readRegs a b =>
    obtain ⟨ho, rfl⟩ | ⟨-, rfl⟩ := exec_readRegs_cases hx
    · have hstart : InCadence (readEntry a b s.accept) := h.stay rfl (cadencePlace_quiet hp)
      exact hstart.runCommand _ (hinv.readEntry ho a b).executing
    · exact h.quiet rfl hp hp
  | openBus a =>
    obtain rfl | ⟨-, rfl⟩ | ⟨ho, rfl⟩ := exec_open_cases hx
    · exact h.quiet rfl hp hp
    · exact h.quiet rfl hp hp
    · have hstart : InCadence (s.accept.beginAct (.opening (addr7 a))) := h.stay rfl (cadencePlace_quiet hp)
      exact hstart.runCommand _ (fun _ => inProgress_opening rfl (hinv.resting hb) ho)
  | close =>
    obtain ⟨ho, rfl⟩ | ⟨-, rfl⟩ := exec_close_cases hx
    · have hstart : InCadence (s.accept.beginAct .close) := h.stay rfl (cadencePlace_quiet hp)
      exact hstart.runCommand _ (fun _ => inProgress_closing rfl (hinv.resting hb) ho)
    · exact h.quiet rfl hp hp
  | decodeHum hoff toff => cases hx; exact h.quiet (decodeSample_trace ..) hp ((decodeSample_pending ..).trans hp)
  | decodeTemp hoff toff => cases hx; exact h.quiet (decodeSample_trace ..) hp ((decodeSample_pending ..).trans hp)
  | decodeBoth hoff toff => cases hx; exact h.quiet (decodeSample_trace ..) hp ((decodeSample_pending ..).trans hp)

/-- The calls a command can have in progress, and the state of the sequencer each stands in (R117, R118, R141). -/
theorem inProgress_call {s : State} {act : BusAct} {began : Nat} (hprog : inProgress s = true)
    (hp : s.pending = some ⟨act, began⟩) :
    (((∃ addr, act = .opening addr) ∨ act = .close) ∧ (s.seq = .idle ∨ s.seq = .fatal))
      ∨ ((act = .send wakeFrame ∨ act = .wait Config.wakeMicros) ∧ s.seq = .waking)
      ∨ (act = .send (requestFrame s.start s.count) ∧ s.seq = .requesting)
      ∨ ((act = .wait Config.thinkMicros ∨ act = .recv (responseLen s.count)) ∧ s.seq = .awaitingResponse) := by
  rw [inProgress, hp] at hprog
  split at hprog <;> simp_all

/-- The call of a command in progress is one its place allows, finished or cut short (R240). -/
theorem cadence_after_ne_broken {s : State} {act : BusAct} {began : Nat} (hprog : inProgress s = true)
    (hp : s.pending = some ⟨act, began⟩) : (cadencePlace s).after act (some .ok) ≠ .broken := by
  obtain ⟨⟨addr, rfl⟩ | rfl, -⟩ | ⟨rfl | rfl, hq⟩ | ⟨rfl, hq⟩ | ⟨rfl | rfl, hq⟩ := inProgress_call hprog hp
  · simp [cadencePlace, hp, Cadence.after]
  · simp [cadencePlace, hp, Cadence.after]
  · simp [cadencePlace, hp, hq, Cadence.after]
  · simp [cadencePlace, hp, hq, Cadence.after]
  · simp [cadencePlace, hp, hq, Cadence.after, requestFrame]
  · simp [cadencePlace, hp, hq, Cadence.after]
  · simp [cadencePlace, hp, hq, Cadence.after]

/-- A reset leaves the attempt, whatever call it cuts short (R240). -/
theorem InCadence.hardReset {s : State} (h : InCadence s) (hinv : Inv s) (left : Leftover) (rest : List HostAction) :
    InCadence (hardReset left (s.withHost rest)) := by
  cases hp : s.pending with
  | none => exact h.stay (by simp [Machine.hardReset, cutTrace, hp]) (cadencePlace_quiet hp)
  | some p =>
    obtain ⟨act, began⟩ := p
    have hb : s.busy = true := by
      by_contra hb
      simp [hinv.quiet (by simpa using hb)] at hp
    have hcut := cadence_after_ne_broken (hinv.executing hb) hp
    have htrace : (Machine.hardReset left (s.withHost rest)).trace =
        s.trace ++ [{ act := act, answer := none, began := began, ended := (s.pass 0).now, finished := false }] := by
      simp [Machine.hardReset, cutTrace, hp]
    refine h.extend htrace ?_
    rw [cadencePlace_quiet (s := Machine.hardReset ..) rfl]
    simp [Cadence.next, hcut]

theorem InCadence.step {s t : State} (h : InCadence s) (hinv : Inv s) (hstep : step s = .next t) : InCadence t := by
  obtain ⟨after, left, rest, -, rfl⟩ | ⟨hb, hresume⟩ | ⟨-, -, rfl⟩ | ⟨hb, w, rest, -, hw⟩ | ⟨hb, a, rest, -, ha⟩ :=
    step_cases hstep
  · exact h.hardReset hinv left rest
  · rw [(resumeCommand_next hresume).2]
    exact h.runCommand _ hinv.executing
  · exact h
  · have htaken : InCadence (takeCommand rest s) := h
    unfold runWord at hw
    split at hw
    next => exact htaken.exec (hinv.takeCommand hb rest) hb hw
    next => cases hw; exact h
  · rw [(hostAct_frame ha).1]
    exact h

end Sys2Proof.Machine

namespace Sys2Proof.InvariantProofs
open Sys2Proof.Machine

/-- Settles O45: no event, and no call in progress. -/
theorem cadenceAtReset : Obligations.CadenceAtReset := rfl

/-- Settles O46: each move adds the one event its place in the cadence allows; a reset cuts off such an event. -/
theorem stepKeepsCadence : Obligations.StepKeepsCadence := fun _ _ hinv h hstep => h.step hinv hstep

end Sys2Proof.InvariantProofs
end

section
/-! Rules of the whole machine: the held host (R60, R252), the hang and the reset that ends it (R120, R240), no stop (R187), the
bound address (R18) and the three writers of `ERRCNT` (R12). -/

namespace Sys2Proof.Machine

/-! ### The step of a busy block -/

theorem step_busy {s : State} (hb : s.busy = true) (hreset : resetNext s = false) : step s = resumeCommand s := by
  unfold step
  split
  next => simp [hb]
  next hh => simp [resetNext, hh] at hreset
  next => simp [hb]
  next => simp [hb]

/-- A command in progress goes on, whatever the host has queued but a reset. -/
theorem step_inProgress {s : State} (hb : s.busy = true) (hprog : inProgress s = true) (hreset : resetNext s = false) :
    step s = .next (runCommand maxTicks s) := by
  rw [step_busy hb hreset, resumeCommand, if_pos hprog]

theorem runCommand_host (n : Nat) (s : State) : (runCommand n s).host = s.host := by
  have hsame : runCommand n s = (runCommand n s).withHost s.host := runCommand_withHost n s.host s
  rw [hsame, State.withHost_host]

@[simp] theorem openAnswered_results (addr : BitVec 7) (accepted : Bool) (s : State) :
    (openAnswered addr accepted s).results = s.results := by
  cases accepted <;> rfl

@[simp] theorem requestAnswered_results (accepted : Bool) (s : State) : (requestAnswered accepted s).results = s.results := by
  cases accepted <;> rfl

@[simp] theorem receiveAnswered_results (n : Nat) (r : BusReply) (s : State) :
    (receiveAnswered n r s).results = s.results := by
  unfold receiveAnswered
  split <;> rfl

@[simp] theorem verify_results (s : State) : (verify s).results = s.results := by
  unfold verify onMismatch
  split_ifs <;> rfl

/-- No move of a command hands the host anything. -/
theorem Move.results_eq {s t : State} (h : Move s t) : t.results = s.results := by
  cases h with
  | hung => rfl
  | opened => rw [openAnswered_results]; rfl
  | closed => rfl
  | woke => rfl
  | ready => rfl
  | asked => rw [requestAnswered_results]; rfl
  | thought => rfl
  | received => rw [receiveAnswered_results]; rfl
  | verified => rw [verify_results]

theorem runCommand_results (n : Nat) (s : State) (hp : s.busy = true → inProgress s = true) :
    (runCommand n s).results = s.results :=
  (runCommand_moves (fun u => u.results = s.results) (fun _ _ _ _ hu hmove => hmove.results_eq.trans hu) n s hp rfl).1

/-! ### Where a step does not go on -/

theorem sampleInRange_iff (n d : Nat) : sampleInRange n d = true ↔ 2 ≤ n ∧ n ≤ 4 ∧ 2 ≤ d ∧ d ≤ 5 := decide_eq_true_iff

/-- The one pseudo-instruction without an expansion is `SAMPLE` out of range (R187). -/
theorem expand_eq_none {p : Pseudo} (h : p.expand = none) :
    ∃ kind n d, p = .sample kind n d ∧ ¬(2 ≤ n ∧ n ≤ 4 ∧ 2 ≤ d ∧ d ≤ 5) := by
  cases p with
  | sample kind n d => exact ⟨kind, n, d, rfl, fun hin => by simp [Pseudo.expand, (sampleInRange_iff n d).mpr hin] at h⟩
  | readHumidity => cases h
  | readTemperature => cases h
  | readAll => cases h
  | checksum bytes => cases h
  | decHum off => cases h
  | decTemp off => cases h
  | decBoth hoff toff => cases h
  | hostWaitS d => cases h
  | rd i => cases h
  | decoded kind signed => cases h

theorem hostAct_refuses {p : Pseudo} (h : p.expand = none) (rest : List HostAction) (s : State) :
    hostAct (.pseudo p) rest s = .refused .sampleParametersOutOfRange := by
  simp [hostAct, h]

/-- At rest the host acts in a next state, but for a pseudo-instruction without an expansion. -/
theorem hostAct_total (a : HostAction) (rest : List HostAction) (s : State) :
    (∃ t, hostAct a rest s = .next t) ∨ ∃ p : Pseudo, a = .pseudo p ∧ p.expand = none := by
  cases a with
  | pseudo p =>
    cases he : p.expand with
    | none => exact .inr ⟨p, rfl, he⟩
    | some actions => exact .inl ⟨s.withHost (actions ++ rest), by simp only [hostAct, he]⟩
  | issue w => exact .inl ⟨_, rfl⟩
  | read i => exact .inl ⟨_, rfl⟩
  | waitSeconds d => exact .inl ⟨_, rfl⟩
  | sampleRead kind more d => exact .inl ⟨_, rfl⟩
  | sampleCheck kind more d => exact .inl ⟨_, rfl⟩
  | decodeCheck kind signed => exact .inl ⟨_, rfl⟩
  | reset after left => exact .inl ⟨_, rfl⟩

theorem runWord_total (w : Word) (s : State) : ∃ t, runWord w s = .next t := by
  unfold runWord
  split
  next i _ => exact exec_total i s
  next => exact ⟨_, rfl⟩

/-- At rest the host's next action happens, if it is no word and no reset. -/
theorem step_hostAct {s : State} {a : HostAction} {rest : List HostAction} (hb : s.busy = false) (hh : s.host = a :: rest)
    (hissue : ∀ w, a ≠ .issue w) (hreset : ∀ after left, a ≠ .reset after left) : step s = hostAct a rest s := by
  cases a with
  | issue w => exact absurd rfl (hissue w)
  | reset after left => exact absurd rfl (hreset after left)
  | read i => simp [step, hh, hb]
  | waitSeconds d => simp [step, hh, hb]
  | pseudo p => simp [step, hh, hb]
  | sampleRead kind more d => simp [step, hh, hb]
  | sampleCheck kind more d => simp [step, hh, hb]
  | decodeCheck kind signed => simp [step, hh, hb]

theorem resetNext_iff (s : State) : resetNext s = true ↔ ∃ after left rest, s.host = .reset after left :: rest := by
  unfold resetNext
  split
  next after left rest hh => simp [hh]
  next hh => simpa using hh

/-- At rest a step stops only at a pseudo-instruction without an expansion. -/
theorem step_rest_total {s : State} (hb : s.busy = false) (hreset : resetNext s = false) :
    (∃ t, step s = .next t) ∨ ∃ p rest, s.host = .pseudo p :: rest ∧ p.expand = none
      ∧ step s = .refused .sampleParametersOutOfRange := by
  cases hh : s.host with
  | nil => exact .inl ⟨_, step_inert hb hh⟩
  | cons a rest =>
    by_cases hissue : ∃ w, a = .issue w
    · obtain ⟨w, rfl⟩ := hissue
      rw [step_issue hb hh]
      exact .inl (runWord_total w _)
    · have hstep := step_hostAct hb hh (fun w hw => hissue ⟨w, hw⟩) (fun after left ha => by simp [resetNext, hh, ha] at hreset)
      rw [hstep]
      rcases hostAct_total a rest s with hnext | ⟨p, rfl, he⟩
      · exact .inl hnext
      · exact .inr ⟨p, rest, rfl, he, hostAct_refuses he rest s⟩

/-! ### The bound address -/

@[simp] theorem requestAnswered_devaddr (accepted : Bool) (s : State) : (requestAnswered accepted s).devaddr = s.devaddr := by
  cases accepted <;> rfl

@[simp] theorem receiveAnswered_devaddr (n : Nat) (r : BusReply) (s : State) :
    (receiveAnswered n r s).devaddr = s.devaddr := by
  unfold receiveAnswered
  split <;> rfl

@[simp] theorem verify_devaddr (s : State) : (verify s).devaddr = s.devaddr := by
  unfold verify onMismatch
  split_ifs <;> rfl

@[simp] theorem requestAnswered_opened (accepted : Bool) (s : State) : (requestAnswered accepted s).opened = s.opened := by
  cases accepted <;> rfl

@[simp] theorem receiveAnswered_opened (n : Nat) (r : BusReply) (s : State) :
    (receiveAnswered n r s).opened = s.opened := by
  unfold receiveAnswered
  split <;> rfl

@[simp] theorem verify_opened (s : State) : (verify s).opened = s.opened := by
  unfold verify onMismatch
  split_ifs <;> rfl

/-- With a handle a move leaves `DEVADDR`, and drops the handle only where it ends the command (R18, R118). -/
theorem Move.devaddr_eq {s t : State} (h : Move s t) (ho : s.opened = true) :
    t.devaddr = s.devaddr ∧ (t.busy = true → t.opened = true) := by
  cases h with
  | hung => exact ⟨rfl, fun _ => ho⟩
  | opened _ _ _ _ _ _ hclosed => simp [ho] at hclosed
  | closed => exact ⟨rfl, by simp [closeAnswered]⟩
  | woke => exact ⟨rfl, fun _ => ho⟩
  | ready => exact ⟨rfl, fun _ => ho⟩
  | asked => simp [ho]
  | thought => exact ⟨rfl, fun _ => ho⟩
  | received => simp [ho]
  | verified => simp [ho]

theorem runCommand_devaddr (n : Nat) (s : State) (hp : s.busy = true → inProgress s = true) (ho : s.opened = true) :
    (runCommand n s).devaddr = s.devaddr :=
  (runCommand_moves (fun u => u.devaddr = s.devaddr ∧ (u.busy = true → u.opened = true))
    (fun _ _ hb _ ⟨haddr, hu⟩ hmove => (hmove.devaddr_eq (hu hb)).imp_left (·.trans haddr)) n s hp ⟨rfl, fun _ => ho⟩).1.1

@[simp] theorem decodeSample_devaddr (hoff toff : Byte) (selHum selTemp : Bool) (s : State) :
    (decodeSample hoff toff selHum selTemp s).devaddr = s.devaddr := by
  unfold decodeSample
  split_ifs <;> rfl

/-- With a handle every command leaves `DEVADDR`: an `OPEN` is refused (R117). -/
theorem exec_devaddr {s t : State} {i : Instr} (h : Inv s) (hb : s.busy = false) (ho : s.opened = true)
    (hx : exec i s = .next t) : t.devaddr = s.devaddr := by
  cases i with
  | crcInit => cases hx; rfl
  | crcByte data => cases hx; rfl
  | readRegs a b =>
    obtain ⟨-, rfl⟩ | ⟨-, rfl⟩ := exec_readRegs_cases hx
    · exact runCommand_devaddr _ (readEntry a b s.accept) (h.readEntry ho a b).executing ho
    · rfl
  | openBus a =>
    obtain rfl | ⟨-, rfl⟩ | ⟨hclosed, -⟩ := exec_open_cases hx
    · rfl
    · rfl
    · simp [ho] at hclosed
  | close =>
    obtain ⟨-, rfl⟩ | ⟨-, rfl⟩ := exec_close_cases hx
    · exact runCommand_devaddr _ (s.accept.beginAct .close) (fun _ => inProgress_closing rfl (h.resting hb) ho) ho
    · rfl
  | decodeHum hoff toff => cases hx; exact decodeSample_devaddr ..
  | decodeTemp hoff toff => cases hx; exact decodeSample_devaddr ..
  | decodeBoth hoff toff => cases hx; exact decodeSample_devaddr ..

theorem step_devaddr {s t : State} (h : Inv s) (hstep : step s = .next t) (ho : s.opened = true) (ho' : t.opened = true) :
    t.devaddr = s.devaddr := by
  obtain ⟨after, left, rest, -, rfl⟩ | ⟨hb, hresume⟩ | ⟨-, -, rfl⟩ | ⟨hb, w, rest, -, hw⟩ | ⟨hb, a, rest, -, ha⟩ :=
    step_cases hstep
  · simp [hardReset] at ho'
  · rw [(resumeCommand_next hresume).2]
    exact runCommand_devaddr _ s h.executing ho
  · rfl
  · unfold runWord at hw
    split at hw
    next => exact (exec_devaddr (h.takeCommand hb rest) hb ho hw).trans rfl
    next => cases hw; rfl
  · rw [(hostAct_frame ha).1]

/-! ### The counter -/

/-- Where a command begun in `s` has left `ERRCNT` when it stands in `u`: as it was, or cleared by an `OPEN` that is complete, or
changed by a read that keeps the handle and, while it goes on, stands in a state of R141. -/
def CounterKept (s u : State) : Prop :=
  (u.errcnt = s.errcnt ∧ (u.busy = true → u.opened = s.opened))
    ∨ (u.busy = false ∧ u.errcnt = 0#8 ∧ u.opened = true ∧ s.opened = false)
    ∨ (s.opened = true ∧ u.opened = true ∧ (u.busy = true → u.seq ≠ .idle ∧ u.seq ≠ .fatal))

/-- A comparison that does not end the read begins the next attempt (R138). -/
theorem verify_reading (s : State) (hb : (verify s).busy = true) : (verify s).seq ≠ .idle ∧ (verify s).seq ≠ .fatal := by
  unfold verify onMismatch at hb ⊢
  split_ifs at hb ⊢ <;> simp_all [onMatch, startAttempt]

/-- Only the comparison and a successful `BusOpen` write the counter (R117, R138, R139). -/
theorem Move.errcnt_cases {u v : State} (h : Move u v) :
    (v.errcnt = u.errcnt ∧ (v.busy = true → v.opened = u.opened))
      ∨ (v.busy = false ∧ v.errcnt = 0#8 ∧ v.opened = true ∧ u.opened = false)
      ∨ (u.opened = true ∧ v.opened = true ∧ (v.busy = true → v.seq ≠ .idle ∧ v.seq ≠ .fatal)) := by
  cases h with
  | hung => exact .inl ⟨rfl, fun _ => rfl⟩
  | opened addr began r rest hp hr ho hq =>
    cases r.accepted with
    | true => exact .inr (.inl ⟨rfl, rfl, rfl, ho⟩)
    | false => exact .inl ⟨rfl, fun _ => rfl⟩
  | closed => exact .inl ⟨rfl, by simp [closeAnswered]⟩
  | woke => exact .inl ⟨rfl, fun _ => rfl⟩
  | ready => exact .inl ⟨rfl, fun _ => rfl⟩
  | asked began r =>
    refine .inl ⟨?_, fun _ => requestAnswered_opened ..⟩
    cases r.accepted <;> rfl
  | thought => exact .inl ⟨rfl, fun _ => rfl⟩
  | received =>
    refine .inl ⟨?_, fun _ => receiveAnswered_opened ..⟩
    unfold receiveAnswered
    split <;> rfl
  | verified hp ho hq => exact .inr (.inr ⟨ho, (verify_opened u).trans ho, verify_reading u⟩)

/-- A move inside a read leaves the handle, and inside the states of R141 unless it ends the read. -/
theorem Move.inRead {u v : State} (h : Move u v) (hi : u.seq ≠ .idle) (hf : u.seq ≠ .fatal) (hopen : u.opened = true) :
    v.opened = true ∧ (v.busy = true → v.seq ≠ .idle ∧ v.seq ≠ .fatal) := by
  cases h with
  | hung => exact ⟨hopen, fun _ => ⟨hi, hf⟩⟩
  | opened addr began r rest hp hr ho hq => simp [hi, hf] at hq
  | closed began hp ho hq => simp [hi, hf] at hq
  | woke => exact ⟨hopen, fun _ => ⟨hi, hf⟩⟩
  | ready => exact ⟨hopen, fun _ => by simp⟩
  | asked began r =>
    refine ⟨(requestAnswered_opened ..).trans hopen, ?_⟩
    cases r.accepted <;> simp [requestAnswered, startThink]
  | thought => exact ⟨hopen, fun _ => ⟨hi, hf⟩⟩
  | received =>
    refine ⟨(receiveAnswered_opened ..).trans hopen, ?_⟩
    unfold receiveAnswered
    split <;> simp
  | verified hp ho hq => exact ⟨(verify_opened u).trans ho, verify_reading u⟩

theorem CounterKept.move {s u v : State} (h : CounterKept s u) (hb : u.busy = true) (hmove : Move u v) : CounterKept s v := by
  obtain ⟨hcnt, ho⟩ | ⟨hdone, -⟩ | ⟨hs, hu, hq⟩ := h
  · rcases hmove.errcnt_cases with ⟨h1, h2⟩ | ⟨h1, h2, h3, h4⟩ | ⟨h1, h2, h3⟩
    · exact .inl ⟨h1.trans hcnt, fun hv => (h2 hv).trans (ho hb)⟩
    · exact .inr (.inl ⟨h1, h2, h3, (ho hb).symm.trans h4⟩)
    · exact .inr (.inr ⟨(ho hb).symm.trans h1, h2, h3⟩)
  · simp [hb] at hdone
  · exact .inr (.inr ⟨hs, hmove.inRead (hq hb).1 (hq hb).2 hu⟩)

theorem runCommand_counter (n : Nat) (s : State) (hp : s.busy = true → inProgress s = true) :
    CounterKept s (runCommand n s) :=
  (runCommand_moves (CounterKept s) (fun _ _ hb _ hu hmove => hu.move hb hmove) n s hp (.inl ⟨rfl, fun _ => rfl⟩)).1

/-- A command begun without a handle is no read. -/
theorem CounterKept.of_closed {s u : State} (h : CounterKept s u) (ho : s.opened = false) :
    u.errcnt = s.errcnt ∨ (u.errcnt = 0#8 ∧ u.opened = true ∧ s.opened = false) := by
  obtain ⟨hcnt, -⟩ | ⟨-, hzero, hopen, -⟩ | ⟨hs, -⟩ := h
  · exact .inl hcnt
  · exact .inr ⟨hzero, hopen, ho⟩
  · simp [ho] at hs

@[simp] theorem decodeSample_errcnt (hoff toff : Byte) (selHum selTemp : Bool) (s : State) :
    (decodeSample hoff toff selHum selTemp s).errcnt = s.errcnt := by
  unfold decodeSample
  split_ifs <;> rfl

/-- `BusClose` leaves the counter (R118). -/
theorem runOn_closing_errcnt {s : State} {began : Nat} (hp : s.pending = some ⟨.close, began⟩) :
    (runOn s).errcnt = s.errcnt := by
  have hclose := tick_close s began hp
  rcases runCommand_oneMove (movesAllowed s) s (.inl (by rw [hclose]; rfl)) with h | h
  · exact congrArg State.errcnt h
  · rw [runOn, h, hclose]
    rfl

/-- Which commands taken at rest change the counter, and how (R12). -/
theorem exec_errcnt {s t : State} {i : Instr} (h : Inv s) (hb : s.busy = false) (hx : exec i s = .next t)
    (hne : t.errcnt ≠ s.errcnt) :
    (t.errcnt = 0#8 ∧ t.opened = true ∧ s.opened = false)
      ∨ (s.opened = true ∧ t.opened = true ∧ ∃ a b, i = .readRegs a b) := by
  cases i with
  | crcInit => cases hx; exact absurd rfl hne
  | crcByte data => cases hx; exact absurd rfl hne
  | readRegs a b =>
    obtain ⟨ho, rfl⟩ | ⟨-, rfl⟩ := exec_readRegs_cases hx
    · have hkept := runCommand_counter (movesAllowed (readEntry a b s.accept)) _ (h.readEntry ho a b).executing
      obtain ⟨hcnt, -⟩ | ⟨-, -, -, hclosed⟩ | ⟨-, hopen, -⟩ := hkept
      · exact absurd hcnt hne
      · exact absurd (ho.symm.trans hclosed) (by simp)
      · exact .inr ⟨ho, hopen, a, b, rfl⟩
    · exact absurd rfl hne
  | openBus a =>
    obtain rfl | ⟨-, rfl⟩ | ⟨ho, rfl⟩ := exec_open_cases hx
    · exact absurd rfl hne
    · exact absurd rfl hne
    · have hkept := runCommand_counter (movesAllowed (s.accept.beginAct (.opening (addr7 a))))
        (s.accept.beginAct (.opening (addr7 a)))
        (fun _ => inProgress_opening rfl (h.resting hb) ho)
      exact .inl ((hkept.of_closed ho).resolve_left hne)
  | close =>
    obtain ⟨-, rfl⟩ | ⟨-, rfl⟩ := exec_close_cases hx
    · exact absurd (runOn_closing_errcnt rfl) hne
    · exact absurd rfl hne
  | decodeHum hoff toff => cases hx; exact absurd (decodeSample_errcnt ..) hne
  | decodeTemp hoff toff => cases hx; exact absurd (decodeSample_errcnt ..) hne
  | decodeBoth hoff toff => cases hx; exact absurd (decodeSample_errcnt ..) hne

end Sys2Proof.Machine

namespace Sys2Proof.MachineProofs
open Sys2Proof.Machine

/-- Settles O6: the command in progress is run beside the host's queue. -/
theorem busyBlockHoldsTheHost : Obligations.BusyBlockHoldsTheHost := by
  intro s h hb hreset
  have hprog := h.executing hb
  refine ⟨_, step_inProgress (s := s.withHost []) hb hprog rfl, ?_, runCommand_results _ _ (fun _ => hprog)⟩
  rw [step_inProgress hb hprog hreset]
  exact congrArg _ (runCommand_withHost maxTicks s.host (s.withHost []))

/-- Settles O8: a move that cannot be made leaves the state, however often it is tried; a reset is a step of its own. -/
theorem unansweredTransactionHangs : Obligations.UnansweredTransactionHangs := by
  refine ⟨fun s h hb hr hreset ⟨p, hp, hwait, hclose⟩ => ?hangs, fun s after left rest hh => ⟨_, step_reset hh, rfl, rfl, rfl⟩⟩
  case hangs =>
    rw [step_inProgress hb (h.executing hb) hreset, runCommand_hung _ s (tick_unanswered s p hp hwait hclose hr)]

/-- Settles O47: a command in progress goes on, and at rest only `SAMPLE` out of range has no expansion. -/
theorem invariantStatesNeverStop : Obligations.InvariantStatesNeverStop := by
  intro s h
  cases hreset : resetNext s with
  | true =>
    obtain ⟨after, left, rest, hh⟩ := (resetNext_iff s).mp hreset
    exact .inl ⟨_, step_reset hh⟩
  | false =>
    cases hb : s.busy with
    | true => exact .inl ⟨_, step_inProgress hb (h.executing hb) hreset⟩
    | false =>
      rcases step_rest_total hb hreset with hnext | ⟨p, rest, hh, he, hrefused⟩
      · exact .inl hnext
      · obtain ⟨kind, n, d, rfl, hout⟩ := expand_eq_none he
        exact .inr ⟨kind, n, d, rest, hh, rfl, hout, hrefused⟩

/-- Settles O48: with a handle no command and no move writes `DEVADDR`. -/
theorem addressIsFixedWhileOpen : Obligations.AddressIsFixedWhileOpen := fun _ _ h hstep ho ho' => step_devaddr h hstep ho ho'

/-- Settles O49: the counter under each kind of step, the word of a read being its own (O3). -/
theorem counterHasThreeWriters : Obligations.CounterHasThreeWriters := by
  intro s t h hstep hne
  obtain ⟨after, left, rest, hh, -⟩ | ⟨hb, hresume⟩ | ⟨-, -, rfl⟩ | ⟨hb, w, rest, hh, hw⟩ | ⟨hb, a, rest, -, ha⟩ :=
    step_cases hstep
  · exact .inl ((resetNext_iff s).mpr ⟨after, left, rest, hh⟩)
  · obtain ⟨-, rfl⟩ := resumeCommand_next hresume
    obtain ⟨hcnt, -⟩ | ⟨-, hzero, hopen, hclosed⟩ | ⟨hs, hopen, -⟩ := runCommand_counter maxTicks s h.executing
    · exact absurd hcnt hne
    · exact .inr (.inl ⟨hzero, hopen, hclosed⟩)
    · exact .inr (.inr ⟨hs, hopen, .inl hb⟩)
  · exact absurd rfl hne
  · unfold runWord at hw
    split at hw
    next i hi =>
      obtain hopens | ⟨ho, hopen, a, b, rfl⟩ := exec_errcnt (h.takeCommand hb rest) hb hw hne
      · exact .inr (.inl hopens)
      · exact .inr (.inr ⟨ho, hopen, .inr ⟨a, b, rest, by rw [hh, (encode_of_decode hi).1]⟩⟩)
    next => cases hw; exact absurd rfl hne
  · rw [(hostAct_frame ha).1] at hne
    exact absurd rfl hne

end Sys2Proof.MachineProofs
end

section
/-! The laws of the checksum (R95 to R97): one shift is injective, so a step is injective in the value and in the byte, and a
sequence followed by its own checksum leaves nothing. Then the command sequences that compute it (R95, R185). -/

namespace Sys2Proof.Machine

/-! ### One shift -/

/-- The polynomial's top bit puts the bit shifted out back at the top. -/
theorem crcShift_msb (v : Half) : (crcShift v).msb = v.getLsbD 0 := by
  have hshift : (v >>> 1).msb = false := by simp [BitVec.msb_ushiftRight]
  unfold crcShift
  cases h : v.getLsbD 0 with
  | true => simp [hshift, BitVec.msb_xor, show Config.crcPoly.msb = true by decide]
  | false => simp [hshift]

/-- The bit shifted out and the rest of the value can both be read off the result. -/
theorem crcShift_injective : Function.Injective crcShift := by
  intro v w h
  have hlow : v.getLsbD 0 = w.getLsbD 0 := by rw [← crcShift_msb v, ← crcShift_msb w, h]
  have hhigh : v >>> 1 = w >>> 1 := by
    unfold crcShift at h
    rw [hlow] at h
    split at h
    · exact (BitVec.xor_left_inj _).mp h
    · exact h
  refine BitVec.eq_of_getLsbD_eq fun i hi => ?_
  cases i with
  | zero => exact hlow
  | succ i => simpa [Nat.add_comm] using congrArg (·.getLsbD i) hhigh

theorem crcShifts_injective (n : Nat) : Function.Injective (crcShifts n) := by
  intro v w h
  rw [crcShifts_eq_iterate, crcShifts_eq_iterate] at h
  exact crcShift_injective.iterate n h

/-- Where the bits shifted out are all 0 the polynomial plays no part. -/
theorem crcShifts_of_low_zero (n : Nat) (v : Half) (h : ∀ i, i < n → v.getLsbD i = false) : crcShifts n v = v >>> n := by
  induction n generalizing v with
  | zero => simp [crcShifts]
  | succ n ih =>
    have hfirst : crcShift v = v >>> 1 := if_neg (by rw [h 0 (by omega)]; simp)
    have hrest : ∀ i, i < n → (v >>> 1).getLsbD i = false := fun i hi => by simp [h (1 + i) (by omega)]
    rw [crcShifts, hfirst, ih _ hrest, ← BitVec.shiftRight_add, Nat.add_comm]

/-! ### One step -/

/-- R97, for a fixed byte. -/
theorem crcStep_injective_value (b : Byte) : Function.Injective (fun c => crcStep c b) := fun _ _ h =>
  (BitVec.xor_left_inj _).mp (crcShifts_injective 8 h)

/-- R97, for a fixed value. -/
theorem crcStep_injective_byte (c : Half) : Function.Injective (crcStep c) := fun b b' h => by
  have hwide : b.setWidth 16 = b'.setWidth 16 := (BitVec.xor_right_inj _).mp (crcShifts_injective 8 h)
  simpa using congrArg (BitVec.setWidth 8) hwide

/-- A step with the low byte of the value shifts that byte out as zeros. -/
theorem crcStep_low (lo hi : Byte) : crcStep (hi ++ lo) lo = hi.setWidth 16 := by
  have hlow : ∀ i, i < 8 → ((hi ++ lo : Half) ^^^ lo.setWidth 16).getLsbD i = false := fun i hi => by
    simp only [BitVec.getLsbD_xor, BitVec.getLsbD_append, BitVec.getLsbD_setWidth]
    simp [hi, show i < 16 by omega]
  rw [crcStep, crcShifts_of_low_zero 8 _ hlow]
  refine BitVec.eq_of_getLsbD_eq fun i hi => ?_
  simp only [BitVec.getLsbD_ushiftRight, BitVec.getLsbD_xor, BitVec.getLsbD_append, BitVec.getLsbD_setWidth]
  simp [hi]

theorem crcStep_eq_zero_iff (c : Half) (b : Byte) : crcStep c b = 0#16 ↔ c = b.setWidth 16 := by
  have hself : crcStep (b.setWidth 16) b = 0#16 := by
    rw [crcStep, BitVec.xor_self, crcShifts_of_low_zero 8 _ (by simp)]
    rfl
  rw [← hself]
  exact (crcStep_injective_value b).eq_iff

/-! ### A sequence -/

theorem crcFrom_eq_foldl (c : Half) (bs : List Byte) : crcFrom c bs = bs.foldl crcStep c := by
  induction bs generalizing c with
  | nil => rfl
  | cons b bs ih => exact ih _

theorem crcFrom_injective (bs : List Byte) : Function.Injective (fun c => crcFrom c bs) := by
  induction bs with
  | nil => exact fun _ _ h => h
  | cons b bs ih => exact fun _ _ h => crcStep_injective_value b (ih h)

/-- R96: two more bytes take the checksum to 0 exactly when they are the checksum, low byte first. -/
theorem crc16_append_eq_zero_iff (bs : List Byte) (lo hi : Byte) : crc16 (bs ++ [lo, hi]) = 0#16 ↔ crc16 bs = hi ++ lo := by
  calc crc16 (bs ++ [lo, hi]) = 0#16
      ↔ crcStep (crcStep (crc16 bs) lo) hi = 0#16 := by rw [crc16, crcFrom_append]; rfl
    _ ↔ crcStep (crc16 bs) lo = crcStep (hi ++ lo) lo := by rw [crcStep_eq_zero_iff, crcStep_low]
    _ ↔ crc16 bs = hi ++ lo := (crcStep_injective_value lo).eq_iff

/-- A 16-bit value is its two bytes. -/
theorem extract_append_extract (v : Half) : v.extractLsb' 8 8 ++ v.extractLsb' 0 8 = v := by
  refine BitVec.eq_of_getLsbD_eq fun i hi => ?_
  simp only [BitVec.getLsbD_append, BitVec.getLsbD_extractLsb']
  split
  · simp_all
  · simp [show i - 8 < 8 by omega, show 8 + (i - 8) = i by omega]

/-! ### The commands that compute it -/

/-- `CRC_BYTE` for each byte of a sequence continues the checksum over it (R93, R95). -/
theorem execAll_crcBytes (bs : List Byte) (s : State) : ∃ t, execAll (bs.map .crcByte) s = some t ∧ t.crc = crcFrom s.crc bs := by
  induction bs generalizing s with
  | nil => exact ⟨s, rfl, rfl⟩
  | cons b bs ih => exact ih { s with crc := crcStep s.crc b, lasterr := 0#8, errphase := 0#4, busy := false }

/-! ### Runs of the whole machine -/

theorem run_step {s t : State} (h : step s = .next t) (k : Nat) : Host.Core.run core (k + 1) s = Host.Core.run core k t := by
  have hcore : core.step s = .next t := h
  simp only [Host.Core.run, hcore]

/-- A run is its first steps and the rest. -/
theorem run_add {s t : State} {k : Nat} (h : Host.Core.run core k s = .next t) (m : Nat) :
    Host.Core.run core (k + m) s = Host.Core.run core m t := by
  induction k generalizing s with
  | zero =>
    cases h
    rw [Nat.zero_add]
  | succ k ih =>
    cases hs : step s with
    | next u =>
      rw [run_step hs] at h
      rw [Nat.add_right_comm, run_step hs, ih h]
    | fault r =>
      have hcore : core.step s = .fault r := hs
      simp [Host.Core.run, hcore] at h
    | refused r =>
      have hcore : core.step s = .refused r := hs
      simp [Host.Core.run, hcore] at h

theorem run_one {s t : State} (h : step s = .next t) : Host.Core.run core 1 s = .next t := run_step h 0

/-- At rest a pseudo-instruction with an expansion puts that in its place (R77). -/
theorem step_pseudo {s : State} {p : Pseudo} {actions rest : List HostAction} (hb : s.busy = false)
    (hh : s.host = .pseudo p :: rest) (he : p.expand = some actions) : step s = .next (s.withHost (actions ++ rest)) := by
  rw [step_hostAct hb hh (by simp) (by simp)]
  simp only [hostAct, he]

/-- At rest the host reads the port (R26). -/
theorem step_read {s : State} {i : Nat} {rest : List HostAction} (hb : s.busy = false) (hh : s.host = .read i :: rest) :
    step s = .next ((s.deliver (.value i (portRead s i))).withHost rest) :=
  step_hostAct hb hh (by simp) (by simp)

/-- At rest, one word per byte continues the checksum over a sequence and touches nothing else the host or the bus sees. -/
theorem run_crcBytes (bs : List Byte) (s : State) (tail : List HostAction) (hb : s.busy = false)
    (hh : s.host = bs.map (fun b => HostAction.issue (encode (.crcByte b))) ++ tail) :
    ∃ t : State, Host.Core.run core bs.length s = .next t ∧ t.busy = false ∧ t.host = tail ∧ t.crc = crcFrom s.crc bs
      ∧ t.results = s.results ∧ t.trace = s.trace := by
  induction bs generalizing s with
  | nil => exact ⟨s, rfl, hb, hh, rfl, rfl, rfl⟩
  | cons b bs ih =>
    let rest := bs.map (fun b => HostAction.issue (encode (.crcByte b))) ++ tail
    have hstep : step s = exec (.crcByte b) (takeCommand rest s) := step_command hb hh (decode_encode (.crcByte b) rfl)
    obtain ⟨t, hrun, hrest⟩ := ih { takeCommand rest s with
      crc := crcStep s.crc b, lasterr := 0#8, errphase := 0#4, busy := false } rfl rfl
    exact ⟨t, (run_step hstep _).trans hrun, hrest⟩

end Sys2Proof.Machine

namespace Sys2Proof.ChecksumProofs
open Sys2Proof.Machine

/-- Settles O12: the accumulator after the commands is the checksum continued, which is a fold. -/
theorem incrementalChecksum : Obligations.IncrementalChecksum := by
  intro s xs ys
  obtain ⟨t, hrun, hcrc⟩ :=
    execAll_crcBytes (xs ++ ys) { s with crc := Config.crcSeed, lasterr := 0#8, errphase := 0#4, busy := false }
  refine ⟨t, hrun, ?_, hcrc⟩
  rw [hcrc, crcFrom_append, ← crcFrom_eq_foldl]
  rfl

/-- Settles O13: the second part, and its first with the two bytes of the checksum itself. -/
theorem checksumResidue : Obligations.ChecksumResidue :=
  ⟨fun bs => (crc16_append_eq_zero_iff bs _ _).mpr (extract_append_extract _).symm, crc16_append_eq_zero_iff⟩

/-- Settles O14: injective on a finite type is bijective; a difference at one byte stays through the bytes after it. -/
theorem checksumSeesOneByte : Obligations.ChecksumSeesOneByte := by
  refine ⟨fun b => Finite.injective_iff_bijective.mp (crcStep_injective_value b), crcStep_injective_byte,
    fun pre post b b' hne h => hne ?_⟩
  rw [crc16, crcFrom_append, crc16, crcFrom_append] at h
  exact crcStep_injective_byte _ (crcFrom_injective post h)

/-- Settles O52: the expansion, the seed, one word per byte and the read of `x[1]`. -/
theorem checksumSequenceReadsCrc16 : Obligations.ChecksumSequenceReadsCrc16 := by
  intro s bytes rest hb hh
  let words := bytes.map (fun b => HostAction.issue (encode (.crcByte b))) ++ .read 1 :: rest
  have hqueue : .issue (encode .crcInit) :: bytes.map (fun b => HostAction.issue (encode (.crcByte b))) ++ [.read 1] ++ rest
      = .issue (encode .crcInit) :: words := by simp [words]
  let u := s.withHost (.issue (encode .crcInit) :: words)
  have hexpand : step s = .next u := by rw [step_pseudo hb hh rfl, hqueue]
  have hinit : step u = exec .crcInit (takeCommand words u) := step_command hb rfl (decode_encode .crcInit rfl)
  obtain ⟨t, hrun, htb, hth, htcrc, htres, httrace⟩ := run_crcBytes bytes
    { takeCommand words u with crc := Config.crcSeed, lasterr := 0#8, errphase := 0#4, busy := false } (.read 1 :: rest) rfl rfl
  have hread := step_read htb hth
  have hvalue : portRead t 1 = (crc16 bytes).setWidth 32 := congrArg (BitVec.setWidth 32) htcrc
  refine ⟨(t.deliver (.value 1 (portRead t 1))).withHost rest, ?_, rfl, ?_, httrace⟩
  · exact (run_step hexpand _).trans ((run_step hinit _).trans ((run_add hrun 1).trans (run_one hread)))
  · show t.results ++ [.value 1 (portRead t 1)] = _
    rw [htres, hvalue]
    rfl

end Sys2Proof.ChecksumProofs
end

section
/-! `STATUS` (R25) and the host register read port (R26): the value of each register, and what the port does not show (R20, R21,
R22, R23). -/

namespace Sys2Proof.Machine

/-! ### `STATUS` -/

/-- `STATUS` with its width as the sum of its fields' widths, which is how the lemmas about `++` speak of it. -/
def statusFields (s : State) : BitVec (5 + 3 + 4 + 4 + 8 + 2 + 1 + 1 + 1 + 1 + 1 + 1) :=
  0#5 ++ s.seq.code ++ 0#4 ++ s.errphase ++ s.lasterr ++ 0#2 ++ bit (exhausted s.errcnt) ++ bit s.tvalid ++ bit s.hvalid
    ++ bit s.pvalid ++ bit s.opened ++ bit s.busy

theorem status_getLsbD (s : State) (i : Nat) : (status s).getLsbD i = (statusFields s).getLsbD i := rfl

theorem status_extractLsb' (s : State) (i n : Nat) : (status s).extractLsb' i n = (statusFields s).extractLsb' i n := rfl

@[simp] theorem bit_getLsbD_zero (b : Bool) : (bit b).getLsbD 0 = b := by cases b <;> rfl

/-- The one-bit fields, from bit 0 up. -/
theorem status_bits (s : State) : (status s).getLsbD 0 = s.busy ∧ (status s).getLsbD 1 = s.opened
    ∧ (status s).getLsbD 2 = s.pvalid ∧ (status s).getLsbD 3 = s.hvalid ∧ (status s).getLsbD 4 = s.tvalid
    ∧ (status s).getLsbD 5 = exhausted s.errcnt := by
  simp only [status_getLsbD, statusFields, BitVec.getLsbD_append, Nat.reduceLT, Nat.reduceSub, if_true, if_false,
    bit_getLsbD_zero, and_self]

/-- The wider fields and the reserved bits between them. -/
theorem status_fields (s : State) : (status s).extractLsb' 6 2 = 0#2 ∧ (status s).extractLsb' 8 8 = s.lasterr
    ∧ (status s).extractLsb' 16 4 = s.errphase ∧ (status s).extractLsb' 20 4 = 0#4
    ∧ (status s).extractLsb' 24 3 = s.seq.code ∧ (status s).extractLsb' 27 5 = 0#5 := by
  simp (disch := decide) only [status_extractLsb', statusFields, BitVec.extractLsb'_append_eq_of_le,
    BitVec.extractLsb'_append_eq_of_add_le, Nat.reduceSub, BitVec.extractLsb'_eq_self, and_self]

/-! ### The registers -/

@[simp] theorem portRead_status (s : State) : portRead s 0 = status s := rfl
@[simp] theorem portRead_crc (s : State) : portRead s 1 = s.crc.setWidth 32 := rfl
@[simp] theorem portRead_errcnt (s : State) : portRead s 2 = s.errcnt.setWidth 32 := rfl
@[simp] theorem portRead_devaddr (s : State) : portRead s 3 = s.devaddr.setWidth 32 := rfl
@[simp] theorem portRead_window (s : State) : portRead s 4 = (concat16 s.start s.count).setWidth 32 := rfl
@[simp] theorem portRead_hum (s : State) : portRead s 5 = if s.hvalid then s.hum.setWidth 32 else 0#32 := rfl
@[simp] theorem portRead_temp (s : State) :
    portRead s 6 = if s.tvalid then (bit s.tneg ++ s.tmag).setWidth 32 else 0#32 := rfl
@[simp] theorem portRead_tempS (s : State) :
    portRead s 7 = if s.tvalid then (tempS s.tneg s.tmag).setWidth 32 else 0#32 := rfl

theorem portRead_payload (s : State) {k : Nat} (hk : k ≤ 254) : portRead s (0x100 + k) = (plByte s k).setWidth 32 := by
  have hrange : 0x100 ≤ 0x100 + k ∧ 0x100 + k ≤ 0x1FE := by omega
  simp only [portRead, show ∀ n, n < 0x100 → ¬0x100 + k = n by omega, Nat.reduceLT, if_false, hrange, if_true,
    and_self, Nat.add_sub_cancel_left]

theorem portRead_none (s : State) {i : Nat} (hlow : 7 < i) (hout : i < 0x100 ∨ 0x1FE < i) : portRead s i = 0#32 := by
  have hrange : ¬(0x100 ≤ i ∧ i ≤ 0x1FE) := by omega
  simp only [portRead, show ∀ n, n ≤ 7 → ¬i = n by omega, Nat.reduceLeDiff, if_false, hrange]

/-- The port widens every register without changing its value. -/
theorem toNat_widened {n : Nat} (hn : n ≤ 32) (v : BitVec n) : (v.setWidth 32).toNat = v.toNat :=
  BitVec.toNat_setWidth_of_le hn

theorem concat16_toNat (hi lo : Byte) : (concat16 hi lo).toNat = 256 * hi.toNat + lo.toNat := by
  rw [concat16, toNat_append_byte, Nat.mul_comm]

theorem signMagnitude_toNat (neg : Bool) (mag : BitVec 15) :
    (bit neg ++ mag : BitVec (1 + 15)).toNat = 32768 * neg.toNat + mag.toNat := by
  rw [BitVec.toNat_append, ← Nat.shiftLeft_add_eq_or_of_lt mag.isLt, Nat.shiftLeft_eq, Nat.mul_comm]
  cases neg <;> rfl

/-- What the port gives for a payload byte, in numbers (R21). -/
theorem plByte_toNat (s : State) (k : Nat) :
    (plByte s k).toNat = if s.pvalid = true ∧ k < s.count.toNat then (Memory.read s.rxbuf (k + 2)).toNat else 0 := by
  unfold plByte
  split <;> rfl

/-- Without a verified payload the port shows no byte of the buffer (R21). -/
theorem portRead_payload_unverified {s : State} (hp : s.pvalid = false) (k : Nat) : portRead s (0x100 + k) = 0#32 := by
  by_cases hk : k ≤ 254
  · rw [portRead_payload s hk, plByte, hp]
    rfl
  · exact portRead_none s (by omega) (by omega)

end Sys2Proof.Machine

namespace Sys2Proof.PortProofs
open Sys2Proof.Machine

/-- Settles O37: the fields cut out of their concatenation; the codes of `SEQ` as they are defined. -/
theorem statusLayout : Obligations.StatusLayout := by
  intro s
  obtain ⟨hbusy, hopened, hpvalid, hhvalid, htvalid, hexhausted⟩ := status_bits s
  obtain ⟨hlow, hlasterr, herrphase, hmid, hseq, htop⟩ := status_fields s
  exact ⟨hbusy, hopened, hpvalid, hhvalid, htvalid, hexhausted, hlow, hlasterr, herrphase, hmid, hseq, htop,
    rfl, rfl, rfl, rfl, rfl, rfl⟩

/-- Settles O38: register by register in numbers, and the read as one host action. -/
theorem readPortMap : Obligations.ReadPortMap := by
  refine ⟨fun s => ⟨rfl, toNat_widened (by decide) s.crc, toNat_widened (by decide) s.errcnt,
    toNat_widened (by decide) s.devaddr, ?window, ?hum, ?temp, ?tempS, ?payload, fun i => portRead_none s⟩,
    fun s i rest hb hh => ?read⟩
  case window => rw [portRead_window, toNat_widened (by decide), concat16_toNat]
  case hum =>
    rw [portRead_hum]
    split
    · exact toNat_widened (by decide) _
    · rfl
  case temp =>
    rw [portRead_temp]
    split
    · rw [toNat_widened (by decide)]
      exact signMagnitude_toNat s.tneg s.tmag
    · rfl
  case tempS =>
    rw [portRead_tempS]
    split
    · exact toNat_widened (by decide) _
    · rfl
  case payload =>
    intro k hk
    rw [portRead_payload s hk, toNat_widened (by decide), plByte_toNat]
  case read =>
    rw [step_read hb hh]
    exact answers_next _

/-- Settles O39: of the replaced values the port shows the payload bytes and the outputs whose valid bit is 1, and those agree. -/
theorem hiddenBytesStayHidden : Obligations.HiddenBytesStayHidden := by
  intro s m len hum neg mag hpayload hhum htemp i
  have hbyte : ∀ k, plByte { s with rxbuf := m, rxlen := len, hum := hum, tneg := neg, tmag := mag } k = plByte s k := by
    intro k
    unfold plByte
    split
    next h => exact hpayload h.1 k h.2
    next => rfl
  have hhumidity : (if s.hvalid then hum.setWidth 32 else 0#32) = if s.hvalid then s.hum.setWidth 32 else 0#32 := by
    split
    next h => rw [hhum h]
    next => rfl
  have htempM : (if s.tvalid then (bit neg ++ mag).setWidth 32 else 0#32)
      = if s.tvalid then (bit s.tneg ++ s.tmag).setWidth 32 else 0#32 := by
    split
    next h => rw [(htemp h).1, (htemp h).2]
    next => rfl
  have htempS : (if s.tvalid then (tempS neg mag).setWidth 32 else 0#32)
      = if s.tvalid then (tempS s.tneg s.tmag).setWidth 32 else 0#32 := by
    split
    next h => rw [(htemp h).1, (htemp h).2]
    next => rfl
  unfold portRead
  rw [hbyte, hhumidity, htempM, htempS]
  rfl

end Sys2Proof.PortProofs
end

section
/-! `CLOSE` (R118), an `OPEN` without an answer (R120), and the reset event inside a command and at rest (R240). -/

namespace Sys2Proof.Machine

/-- `CLOSE` with a handle and no reset inside it is its one transaction (R118). -/
theorem exec_close_handle {s : State} (ho : s.opened = true) (hreset : resetNext s = false) :
    exec .close s = .next (closeAnswered (((s.accept.beginAct .close).pass 0).endAct ⟨.close, s.now⟩ (some .ok))) := by
  have hmove := tick_close (s.accept.beginAct .close) s.now rfl
  have hrun : runOn (s.accept.beginAct .close) = tick (s.accept.beginAct .close) :=
    runOn_oneMove rfl hreset (by rw [hmove]; rfl)
  rw [hmove] at hrun
  simp only [exec, execClose, ho, if_true, hrun]

theorem exec_close_noHandle {s : State} (ho : s.opened = false) :
    exec .close s = .next { s with lasterr := 0#8, errphase := 0#4, busy := false } := by
  obtain ⟨t, ht⟩ := exec_total .close s
  obtain ⟨hopen, -⟩ | ⟨-, rfl⟩ := exec_close_cases ht
  · simp [ho] at hopen
  · exact ht

theorem closeAnswered_untimed (s : State) : (closeAnswered s).untimed =
    { s.untimed with opened := false, lasterr := 0#8, errphase := 0#4, busy := false } := rfl

/-- A call that ends, clock values aside. -/
theorem endAct_untimed (s : State) (p : Pending) (us : Nat) (answer : Option BusAnswer) :
    ((s.pass us).endAct p answer).untimed =
      { s.untimed with pending := none, trace := s.untimed.trace ++ [event p.act answer] } := by
  simp only [State.untimed, State.endAct_trace, State.pass_trace, List.map_append]
  rfl

theorem hardReset_trace_pending {s : State} {p : Pending} (hp : s.pending = some p) (left : Leftover) :
    ∃ e, (hardReset left s).trace = s.trace ++ [e] ∧ e.act = p.act ∧ e.answer = none ∧ e.finished = false := by
  refine ⟨{ act := p.act, answer := none, began := p.began, ended := (s.pass 0).now, finished := false }, ?_, rfl, rfl, rfl⟩
  simp [hardReset, cutTrace, hp]

theorem hardReset_trace_quiet {s : State} (hp : s.pending = none) (left : Leftover) : (hardReset left s).trace = s.trace := by
  simp [hardReset, cutTrace, hp]

/-- A command that has stopped in a call, with a reset next: the reset ends it and leaves the call unfinished (R240). -/
theorem reset_cuts_call {s t : State} {n : Nat} {left : Leftover} {rest : List HostAction} {act : BusAct} {began : Nat}
    (hb : t.busy = true) (hh : t.host = .reset n left :: rest) (hp : t.pending = some ⟨act, began⟩)
    (htrace : s.trace <+: t.trace) :
    ∃ t' u e before, Host.Outcome.next t = (.next t' : Host.Outcome State Fault Refusal) ∧ t'.busy = true ∧ step t' = .next u
      ∧ u.busy = false ∧ u.seq = .idle ∧ u.host = rest ∧ u.trace = before ++ [e] ∧ s.trace <+: before ∧ e.act = act
      ∧ e.answer = none ∧ e.finished = false := by
  obtain ⟨e, hcut, hact, hanswer, hfinished⟩ := hardReset_trace_pending (s := t.withHost rest) hp left
  exact ⟨t, _, e, t.trace, rfl, hb, step_reset hh, rfl, rfl, rfl, hcut, htrace, hact, hanswer, hfinished⟩

/-- With a reset after `n` moves next, a command makes `n` moves if that is within what it needs (R240). -/
theorem runOn_reset {s : State} {n : Nat} {left : Leftover} {rest : List HostAction} (hh : s.host = .reset n left :: rest)
    (hn : n ≤ maxTicks) : runOn s = runCommand n s := by
  rw [runOn, movesAllowed, hh]
  exact congrArg (runCommand · s) (Nat.min_eq_left hn)

theorem exec_readRegs_reset {s : State} {n : Nat} {left : Leftover} {rest : List HostAction} (a b : Byte) (ho : s.opened = true)
    (hh : s.host = .reset n left :: rest) (hn : n ≤ maxTicks) :
    exec (.readRegs a b) s = .next (runCommand n (readEntry a b s.accept)) := by
  rw [← runOn_reset (s := readEntry a b s.accept) hh hn]
  simp [exec, execReadRegs, ho]

/-- A read only extends the trace. -/
theorem readEntry_trace_prefix {s : State} (a b : Byte) (ho : s.opened = true) (n : Nat) :
    s.trace <+: (runCommand n (readEntry a b s.accept)).trace :=
  runCommand_trace_prefix n (readEntry a b s.accept) (fun _ => startAttempt_progress _ ho)

/-- One move into a read its wake wait is in progress (R133). -/
theorem readEntry_oneMove {s : State} {w : BusReply} {more : List BusReply} (a b : Byte) (hr : s.replies = w :: more) :
    let t := runCommand 1 (readEntry a b s.accept)
    t.busy = true ∧ t.host = s.host ∧ ∃ began, t.pending = some ⟨.wait Config.wakeMicros, began⟩ := by
  have hmove := tick_wakeWrite (readEntry a b s.accept) wakeFrame s.now w more rfl rfl hr
  rw [runCommand_succ 0 _ rfl, runCommand_zero, hmove]
  exact ⟨rfl, rfl, _, rfl⟩

/-- Three moves into a read whose request is answered `Ok` its think time is in progress (R135). -/
theorem readEntry_threeMoves {s : State} {w q : BusReply} {more : List BusReply} (a b : Byte)
    (hr : s.replies = w :: q :: more) (hq : q.accepted = true) :
    let t := runCommand 3 (readEntry a b s.accept)
    t.busy = true ∧ t.host = s.host ∧ ∃ began, t.pending = some ⟨.wait Config.thinkMicros, began⟩ := by
  obtain ⟨now, draws, trace, -, hrun⟩ :=
    attempt_wakes { s.accept.clearSample with start := a, count := b, pvalid := false } w (q :: more) rfl hr 1
  rw [readEntry, hrun, runCommand_succ 0 _ rfl, runCommand_zero, tick_request _ _ _ q more rfl rfl rfl, requestAnswered, hq]
  exact ⟨rfl, rfl, _, rfl⟩

end Sys2Proof.Machine

namespace Sys2Proof.TransportProofs
open Sys2Proof.Machine

/-- Settles O16: the one call of `OPEN` is begun and cannot be moved on. -/
theorem unansweredOpenStaysBusy : Obligations.UnansweredOpenStaysBusy := by
  intro s a hwf ho hr
  have hhung : tick (s.accept.beginAct (.opening (addr7 a))) = s.accept.beginAct (.opening (addr7 a)) :=
    tick_unanswered _ ⟨.opening (addr7 a), s.now⟩ rfl (by simp) (by simp) hr
  rw [exec_open_noHandle hwf ho, runOn, runCommand_hung _ _ hhung]
  rfl

/-- Settles O17: with a handle the one transaction of `exec_close_handle`, without one the completion alone. -/
theorem closeFollowsItsRule : Obligations.CloseFollowsItsRule := by
  refine fun s => ⟨fun ho hreset => ⟨_, exec_close_handle ho hreset, ?handle⟩, fun ho => ?noHandle⟩
  case handle =>
    rw [closeAnswered_untimed, endAct_untimed]
    rfl
  case noHandle =>
    rw [exec_close_noHandle ho]
    exact answers_next _

end Sys2Proof.TransportProofs

namespace Sys2Proof.ResetProofs
open Sys2Proof.Machine

/-- Settles O41: the values of R30 as `hardReset` writes them; the trace by whether a call is cut short. -/
theorem resetEvent : Obligations.ResetEvent := by
  intro s after left rest hh
  refine ⟨_, step_reset hh, rfl, rfl, rfl, rfl, rfl, rfl, rfl, rfl, rfl, rfl, rfl, rfl, rfl, rfl, rfl, rfl, rfl, ?clock,
    fun hp => hardReset_trace_quiet hp left, fun p hp => hardReset_trace_pending hp left⟩
  case clock => exact (Nat.le_add_right s.now 0).trans (Nat.le_add_right _ _)

/-- Settles O42: where each command stands after the moves allowed it, and the reset there. -/
theorem resetLandsInsideACommand : Obligations.ResetLandsInsideACommand := by
  intro s a b left rest at_ cut
  refine ⟨fun w more ho hr => ?wake, fun w q more ho hr hq => ?think, fun ho hwf => ?opening, fun ho => ?closing⟩
  case wake =>
    obtain ⟨hb, hh, began, hp⟩ := readEntry_oneMove (s := at_ 1) a b hr
    simp only [cut, exec_readRegs_reset (s := at_ 1) a b ho rfl (by decide)]
    exact reset_cuts_call hb hh hp (readEntry_trace_prefix (s := at_ 1) a b ho 1)
  case think =>
    obtain ⟨hb, hh, began, hp⟩ := readEntry_threeMoves (s := at_ 3) a b hr hq
    simp only [cut, exec_readRegs_reset (s := at_ 3) a b ho rfl (by decide)]
    exact reset_cuts_call hb hh hp (readEntry_trace_prefix (s := at_ 3) a b ho 3)
  case opening =>
    simp only [cut, exec_open_noHandle (s := at_ 0) hwf ho]
    exact reset_cuts_call (t := (at_ 0).accept.beginAct (.opening (addr7 a))) rfl rfl rfl List.prefix_rfl
  case closing =>
    simp only [cut, exec, execClose, show (at_ 0).opened = true from ho, if_true]
    exact reset_cuts_call (t := (at_ 0).accept.beginAct .close) rfl rfl rfl List.prefix_rfl

end Sys2Proof.ResetProofs
end

section
/-! The host's own sequences at rest (R180 to R187): what they expand to, and the ends that need no command. -/

namespace Sys2Proof.Machine

/-- R184: a read that has left a fault ends its `SAMPLE`. -/
theorem sampleNext_fault {s : State} (h : s.lasterr ≠ 0#8) (kind : Window) (more d : Nat) (rest : List HostAction) :
    sampleNext kind more d rest s = (s.deliver (.sampleFault s.lasterr)).withHost rest := by
  simp [sampleNext, h]

end Sys2Proof.Machine

namespace Sys2Proof.HostSeqProofs
open Sys2Proof.Machine

/-- Settles O51: the words of the three windows computed, the `DECODE` words as they are written. -/
theorem pseudoWords : Obligations.PseudoWords :=
  ⟨by decide, by decide, by decide, fun _ => rfl, fun _ => rfl, fun _ _ => rfl⟩

/-- Settles O54: the check after a read is one host action, and with `LASTERR` not 0 it drops the rest of its `SAMPLE`. -/
theorem sampleStopsAtAFault : Obligations.SampleStopsAtAFault := by
  intro s kind more d rest hb hh herr
  rw [step_hostAct hb hh (by simp) (by simp), hostAct, sampleNext_fault herr]
  exact answers_next _

/-- Settles O55: out of range there is no expansion. -/
theorem sampleOutOfRangeIsRefused : Obligations.SampleOutOfRangeIsRefused := by
  intro s kind n d rest hb hh hout
  have hrange : sampleInRange n d = false := by rwa [Bool.eq_false_iff, ne_eq, sampleInRange_iff]
  rw [step_hostAct hb hh (by simp) (by simp)]
  exact hostAct_refuses (by simp [Pseudo.expand, hrange]) rest s

/-- Settles O56: the wait is one host action, the passing of time. -/
theorem hostWaitOnlyPassesTime : Obligations.HostWaitOnlyPassesTime := by
  intro s d rest hb hh
  exact ⟨_, step_hostAct hb hh (by simp) (by simp), rfl, Nat.le_add_right _ _⟩

end Sys2Proof.HostSeqProofs
end

section
/-! A protocol read by the answers it gets (R130 to R147): the state it ends in after mismatches within its budget and a match, at
the end of its budget, and at a failed request or receive. -/

namespace Sys2Proof.Machine

/-! ### The entry -/

/-- What the entry of `READ_REGS a, b` leaves before its first attempt begins (R132). -/
def State.entered (s : State) (a b : Byte) : State := { s.accept.clearSample with start := a, count := b, pvalid := false }

@[simp] theorem State.entered_count (s : State) (a b : Byte) : (s.entered a b).count = b := rfl
@[simp] theorem State.entered_errcnt (s : State) (a b : Byte) : (s.entered a b).errcnt = s.errcnt := rfl
@[simp] theorem State.entered_replies (s : State) (a b : Byte) : (s.entered a b).replies = s.replies := rfl

theorem readEntry_eq_startAttempt (s : State) (a b : Byte) : readEntry a b s.accept = startAttempt (s.entered a b) := rfl

theorem exec_readRegs_entered {s : State} (a b : Byte) (ho : s.opened = true) (hreset : resetNext s = false) :
    exec (.readRegs a b) s = .next (runCommand maxTicks (startAttempt (s.entered a b))) :=
  exec_readRegs_handle a b ho hreset

/-! ### A match -/

/-- What a matching attempt leaves (R136, R139), the clock, the draws and the trace aside. -/
def State.matched (s : State) (bytes : List Byte) (rest : List BusReply) (now draws : Nat) (trace : List BusEvent) : State :=
  { s with
    replies := rest, seq := .idle, now := now, draws := draws, trace := trace, errcnt := 0#8
    crc := frameCrc s.count bytes, pvalid := true, lasterr := 0#8, errphase := 0#4, busy := false
    rxbuf := Memory.writeBytes s.rxbuf 0 bytes, rxlen := BitVec.ofNat 9 (responseLen s.count), pending := none }

/-- A frame fits the buffer (R72, R20). -/
theorem frame_fits {count : Byte} {bytes : List Byte} (hl : bytes.length = responseLen count) :
    0 + bytes.length ≤ Config.rxbufBytes := by
  have hcount := count.isLt
  simp only [hl, responseLen, Config.rxbufBytes]
  omega

/-- Inside the frame the buffer holds the frame. -/
theorem read_frame_inside {m : Memory} {count : Byte} {bytes : List Byte} (hm : Memory.wf m)
    (hl : bytes.length = responseLen count) {k : Nat} (hk : k < count.toNat + 4) :
    Memory.read (Memory.writeBytes m 0 bytes) k = bytes.getD k 0#8 := by
  have hinside : 0 ≤ k ∧ k < 0 + bytes.length := by rw [hl, responseLen]; omega
  rw [Memory.read_writeBytes m 0 bytes k hm (frame_fits hl), if_pos hinside, Nat.sub_zero]

/-- Beyond the frame the buffer holds what it held (R20). -/
theorem read_frame_beyond {m : Memory} {count : Byte} {bytes : List Byte} (hm : Memory.wf m)
    (hl : bytes.length = responseLen count) {k : Nat} (hk : count.toNat + 4 ≤ k) :
    Memory.read (Memory.writeBytes m 0 bytes) k = Memory.read m k := by
  have hbeyond : ¬(0 ≤ k ∧ k < 0 + bytes.length) := by rw [hl, responseLen]; omega
  rw [Memory.read_writeBytes m 0 bytes k hm (frame_fits hl), if_neg hbeyond]

theorem wf_frame {m : Memory} {count : Byte} {bytes : List Byte} (hm : Memory.wf m) (hl : bytes.length = responseLen count) :
    Memory.wf (Memory.writeBytes m 0 bytes) :=
  Memory.wf_writeBytes m 0 bytes hm (frame_fits hl)

/-- After a match the payload is the frame's (R21, R71). -/
theorem payload_matched {s : State} {bytes : List Byte} (hm : Memory.wf s.rxbuf) (hl : bytes.length = responseLen s.count)
    (rest : List BusReply) (now draws : Nat) (trace : List BusEvent) :
    payload (s.matched bytes rest now draws trace) = (bytes.drop 2).take s.count.toNat :=
  Memory.slice_writeBytes s.rxbuf bytes s.count.toNat 2 hm (by simpa using frame_fits hl) (by rw [hl, responseLen]; omega)

/-- After a match a payload byte is the frame's. -/
theorem plByte_matched {s : State} {bytes : List Byte} (hm : Memory.wf s.rxbuf) (hl : bytes.length = responseLen s.count)
    (rest : List BusReply) (now draws : Nat) (trace : List BusEvent) {k : Nat} (hk : k < s.count.toNat) :
    plByte (s.matched bytes rest now draws trace) k = bytes.getD (k + 2) 0#8 :=
  (if_pos ⟨rfl, hk⟩).trans (read_frame_inside hm hl (by omega))

/-- A matching attempt, in six moves. -/
theorem attempt_matched {s : State} {x : Attempt} {bytes : List Byte} {rest : List BusReply} (hb : s.busy = true)
    (hm : Memory.wf s.rxbuf) (hr : s.replies = x.replies ++ rest) (hx : x.delivers s.count bytes)
    (hf : frameMatches s.count bytes = true) (n : Nat) :
    ∃ now draws trace, Later s (attemptEvents x s.start s.count bytes) (Config.wakeMicros + Config.thinkMicros) now draws trace
      ∧ runCommand (n + 6) (startAttempt s) = s.matched bytes rest now draws trace :=
  attempt_matches s x bytes rest hb hm hr hx hf n

/-- A read that matches at once: the whole next state. -/
theorem exec_readRegs_matched {s : State} {a b : Byte} {x : Attempt} {bytes : List Byte} {rest : List BusReply}
    (ho : s.opened = true) (hreset : resetNext s = false) (hm : Memory.wf s.rxbuf) (hr : s.replies = x.replies ++ rest)
    (hx : x.delivers b bytes) (hf : frameMatches b bytes = true) :
    ∃ now draws trace,
      Later (s.entered a b) (attemptEvents x a b bytes) (Config.wakeMicros + Config.thinkMicros) now draws trace
        ∧ exec (.readRegs a b) s = .next ((s.entered a b).matched bytes rest now draws trace) := by
  obtain ⟨now, draws, trace, hlater, hrun⟩ := attempt_matched (s := s.entered a b) rfl hm hr hx hf 30
  exact ⟨now, draws, trace, hlater, (exec_readRegs_entered a b ho hreset).trans (congrArg _ hrun)⟩

/-! ### Mismatches within the budget -/

theorem attemptBudget_eq (e : Byte) : attemptBudget e = max 1 (6 - e.toNat) := rfl

/-- Mismatching attempts that leave one more within the budget (R142): the moves they take, and what they leave before the next
attempt begins. -/
theorem retries_within_budget {bad : List Attempt} {s : State} {rest : List BusReply} (hb : s.busy = true)
    (hm : Memory.wf s.rxbuf) (hr : s.replies = bad.flatMap Attempt.replies ++ rest) (hbad : ∀ x ∈ bad, x.mismatching s.count)
    (hlen : bad.length < attemptBudget s.errcnt) :
    ∃ now draws trace crc rxbuf rxlen errcnt pending seq,
      let u : State := { s with
        replies := rest, now := now, draws := draws, trace := trace, crc := crc, rxbuf := rxbuf, rxlen := rxlen
        errcnt := errcnt, pending := pending, seq := seq }
      (∃ n, runCommand maxTicks (startAttempt s) = runCommand (n + 6) (startAttempt u))
        ∧ errcnt.toNat = s.errcnt.toNat + bad.length ∧ Memory.wf rxbuf
        ∧ wakeWrites trace = wakeWrites s.trace + bad.length
        ∧ ∀ k, s.count.toNat + 4 ≤ k → Memory.read rxbuf k = Memory.read s.rxbuf k := by
  rw [attemptBudget_eq] at hlen
  cases bad with
  | nil =>
    have hsame : s = { s with replies := rest } := by
      have hr : s.replies = rest := by simpa using hr
      rw [← hr]
    refine ⟨s.now, s.draws, s.trace, s.crc, s.rxbuf, s.rxlen, s.errcnt, s.pending, s.seq, ⟨30, ?_⟩, by simp, hm, by simp,
      fun _ _ => rfl⟩
    exact congrArg (fun u => runCommand maxTicks (startAttempt u)) hsame
  | cons x bad =>
    simp only [List.length_cons] at hlen
    have hmoves : maxTicks = (30 - 6 * (x :: bad).length) + 6 + 6 * (x :: bad).length := by
      simp only [maxTicks, Config.errThreshold, List.length_cons]
      omega
    obtain ⟨now, draws, trace, crc, rxbuf, rxlen, errcnt, pending, seq, hrun, hcnt, hwf, hwake, hbeyond, -⟩ :=
      many_retries (x :: bad) s rest hb hm hr hbad (by simp only [List.length_cons]; omega) (30 - 6 * (x :: bad).length + 6)
    exact ⟨now, draws, trace, crc, rxbuf, rxlen, errcnt, pending, seq, ⟨_, by rw [hmoves, hrun]⟩, hcnt, hwf, hwake, hbeyond⟩

/-! ### The frame of a device that answers right -/

theorem responseFrame_length (data : List Byte) : (responseFrame data).length = data.length + 4 := by
  simp [responseFrame]

/-- The two last bytes of the frame of R71 are its checksum, low byte first. -/
theorem responseFrame_matches {data : List Byte} (hlen : data.length ≤ 255) :
    frameMatches (BitVec.ofNat 8 data.length) (responseFrame data) = true := by
  have hcount : (BitVec.ofNat 8 data.length).toNat = data.length := by rw [BitVec.toNat_ofNat]; omega
  let body := [Config.funcRead, BitVec.ofNat 8 data.length] ++ data
  have hbody : body.length = data.length + 2 := by simp [body]
  have hframe : responseFrame data = body ++ [(crc16 body).extractLsb' 0 8, (crc16 body).extractLsb' 8 8] := rfl
  have hsum : frameCrc (BitVec.ofNat 8 data.length) (responseFrame data) = crc16 body := by
    rw [frameCrc, hcount, hframe, ← hbody, List.take_left]
  have hlow : (responseFrame data).getD (data.length + 2) 0#8 = (crc16 body).extractLsb' 0 8 := by
    rw [hframe, ← hbody, List.getD_append_right _ _ _ _ le_rfl, Nat.sub_self]
    rfl
  have hhigh : (responseFrame data).getD (data.length + 3) 0#8 = (crc16 body).extractLsb' 8 8 := by
    rw [hframe, show data.length + 3 = body.length + 1 by omega, List.getD_append_right _ _ _ _ (Nat.le_add_right _ _),
      Nat.add_sub_cancel_left]
    rfl
  rw [frameMatches, hsum, hcount, hhigh, hlow, concat16, extract_append_extract]
  exact beq_self_eq_true _

/-- The frame of R71 around `data` carries it as its payload. -/
theorem responseFrame_payload (data : List Byte) : ((responseFrame data).drop 2).take data.length = data := by
  simp [responseFrame]

/-- Answered by a device that answers right, an attempt receives the whole frame. -/
theorem responseFrame_delivers {data : List Byte} (hlen : data.length ≤ 255) (w : BusReply) {q : BusReply}
    (hq : q.accepted = true) :
    Attempt.delivers ⟨w, q, .ok (responseFrame data)⟩ (BitVec.ofNat 8 data.length) (responseFrame data) := by
  have hcount : responseLen (BitVec.ofNat 8 data.length) = (responseFrame data).length := by
    rw [responseFrame_length, responseLen, BitVec.toNat_ofNat]
    omega
  refine ⟨hq, ?_⟩
  rw [hcount]
  simp [BusReply.received]

end Sys2Proof.Machine

namespace Sys2Proof.ProtocolReadProofs
open Sys2Proof.Machine

/-- Settles O21: one matching attempt from the entry. -/
theorem firstAttemptTrace : Obligations.FirstAttemptTrace := by
  intro s a b x bytes rest ho hreset hx hf hm hr
  obtain ⟨now, draws, trace, hlater, hexec⟩ := exec_readRegs_matched ho hreset hm hr hx hf
  refine ⟨_, hexec, ?_⟩
  simp only [State.untimed, State.matched, hlater.trace]
  rfl

/-- Settles O20: the mismatches within the budget, then a matching attempt. -/
theorem readCompletesOnAMatch : Obligations.ReadCompletesOnAMatch := by
  intro s a b bad good bytes rest ho hreset hm hbad hlen hgood hf hr
  have hreplies : (s.entered a b).replies = bad.flatMap Attempt.replies ++ (good.replies ++ rest) := by
    simpa using hr
  obtain ⟨now, draws, trace, crc, rxbuf, rxlen, errcnt, pending, seq, ⟨n, hrun⟩, -, hwf, hwake, hbeyond⟩ :=
    retries_within_budget (s := s.entered a b) rfl hm hreplies hbad hlen
  let u : State := { s.entered a b with
    replies := good.replies ++ rest, now := now, draws := draws, trace := trace, crc := crc, rxbuf := rxbuf, rxlen := rxlen
    errcnt := errcnt, pending := pending, seq := seq }
  obtain ⟨now', draws', trace', hlater, hmatch⟩ := attempt_matched (s := u) rfl hwf rfl hgood hf n
  have hl : bytes.length = responseLen b := received_length hgood.2
  refine ⟨u.matched bytes rest now' draws' trace', ?_, rfl, fun k hk => read_frame_inside hwf hl hk,
    fun k hk => (read_frame_beyond hwf hl hk).trans (hbeyond k hk), payload_matched (s := u) hwf hl .., ?_⟩
  · rw [exec_readRegs_entered a b ho hreset, hrun, ← hmatch]
  · exact (wakeWrites_attempt hlater).trans (congrArg (· + 1) hwake)

/-- Settles O22: all mismatches but the last stay within the budget, and the last takes the counter over the threshold. -/
theorem readExhaustsItsBudget : Obligations.ReadExhaustsItsBudget := by
  intro s a b bad rest ho hreset hm hbad hlen hr
  obtain ⟨init, x, rfl⟩ : ∃ init x, bad = init ++ [x] :=
    ⟨_, _, (List.dropLast_append_getLast (List.ne_nil_of_length_pos (by omega))).symm⟩
  rw [List.length_append, List.length_singleton] at hlen
  have hreplies : (s.entered a b).replies = init.flatMap Attempt.replies ++ (x.replies ++ rest) := by
    simpa using hr
  have hbudget : init.length < attemptBudget (s.entered a b).errcnt := by
    rw [State.entered_errcnt, attemptBudget_eq]
    omega
  obtain ⟨now, draws, trace, crc, rxbuf, rxlen, errcnt, pending, seq, ⟨n, hrun⟩, hcnt, hwf, hwake, -⟩ :=
    retries_within_budget (s := s.entered a b) rfl hm hreplies (fun y hy => hbad y (by simp [hy])) hbudget
  have hcnt : errcnt.toNat = s.errcnt.toNat + init.length := hcnt
  have hwake : wakeWrites trace = wakeWrites s.trace + init.length := hwake
  obtain ⟨bytes, hx, hf⟩ := hbad x (by simp)
  let u : State := { s.entered a b with
    replies := x.replies ++ rest, now := now, draws := draws, trace := trace, crc := crc, rxbuf := rxbuf, rxlen := rxlen
    errcnt := errcnt, pending := pending, seq := seq }
  have hsat := satInc_toNat errcnt
  obtain ⟨now', draws', trace', hlater, hlast⟩ :=
    attempt_exhausts u x bytes rest rfl hwf rfl hx hf (by show 5 < (satInc errcnt).toNat; omega) n
  have hwake' : wakeWrites trace' = wakeWrites trace + 1 := wakeWrites_attempt hlater
  refine ⟨_, (exec_readRegs_entered a b ho hreset).trans (congrArg _ (hrun.trans hlast)), rfl, rfl, rfl, rfl, rfl, ?_, rfl, ?_⟩
  · show (satInc errcnt).toNat = _
    omega
  · show wakeWrites trace' = _
    omega

/-- Settles O25: the wake write and wait, then the failed request. -/
theorem requestFailureEndsTheRead : Obligations.RequestFailureEndsTheRead := by
  intro s a b w q rest ho hreset hr hq
  obtain ⟨n1, d1, t1, l1, h1⟩ := attempt_wakes (s.entered a b) w (q :: rest) rfl hr 34
  obtain ⟨n2, d2, t2, l2, h2⟩ := attempt_requestFails
    { s.entered a b with
      replies := q :: rest, seq := .requesting, now := n1, draws := d1, trace := t1
      pending := some { act := .send (requestFrame a b), began := n1 } }
    q rest _ _ rfl rfl rfl rfl hq 33
  refine ⟨_, (exec_readRegs_entered a b ho hreset).trans (congrArg _ (h1.trans h2)), ?_⟩
  simp only [State.untimed, l2.trace, l1.trace, List.append_assoc, restSeq_eq]
  rfl

/-- Settles O26: a whole attempt as far as the receive, which fails. -/
theorem receiveFailureEndsTheRead : Obligations.ReceiveFailureEndsTheRead := by
  intro s a b w q d rest ho hreset hr hq hd
  obtain ⟨n1, d1, t1, l1, h1⟩ := attempt_wakes (s.entered a b) w (q :: d :: rest) rfl hr 34
  obtain ⟨n2, d2, t2, l2, h2⟩ := attempt_asks
    { s.entered a b with
      replies := q :: d :: rest, seq := .requesting, now := n1, draws := d1, trace := t1
      pending := some { act := .send (requestFrame a b), began := n1 } }
    q (d :: rest) _ _ rfl rfl rfl rfl hq 32
  obtain ⟨n3, d3, t3, rxbuf, rxlen, l3, -, h3⟩ := attempt_receiveFails
    { s.entered a b with
      replies := d :: rest, seq := .awaitingResponse, now := n2, draws := d2, trace := t2
      pending := some { act := .recv (responseLen b), began := n2 } }
    d rest _ _ rfl rfl rfl hd 31
  refine ⟨_, (exec_readRegs_entered a b ho hreset).trans (congrArg _ (h1.trans (h2.trans h3))), ?_⟩
  simp only [State.untimed, l3.trace, l2.trace, l1.trace, List.append_assoc, restSeq_eq]
  rfl

/-- Settles O31: the frame of R71 matches, so the read completes with its payload. -/
theorem wellFormedFrameIsDelivered : Obligations.WellFormedFrameIsDelivered := by
  intro s a data w q rest ho hreset hm hlen hq hr
  have hx := responseFrame_delivers hlen w hq
  have hl := received_length hx.2
  have hcount : (BitVec.ofNat 8 data.length).toNat = data.length := by rw [BitVec.toNat_ofNat]; omega
  obtain ⟨now, draws, trace, -, hexec⟩ := exec_readRegs_matched (a := a) ho hreset hm hr hx (responseFrame_matches hlen)
  let u := s.entered a (BitVec.ofNat 8 data.length)
  have hpayload := payload_matched (s := u) hm hl rest now draws trace
  refine ⟨_, hexec, rfl, rfl, ?_, fun k hk => ?_⟩
  · rw [hpayload, State.entered_count, hcount, responseFrame_payload]
  · have hbyte := plByte_matched (s := u) hm hl rest now draws trace (k := k) (by rwa [State.entered_count, hcount])
    have hdata : (responseFrame data).getD (k + 2) 0#8 = data.getD k 0#8 := by
      simp [responseFrame, List.getElem?_append_left hk]
    rw [portRead_payload _ (by omega), hbyte, hdata]

end Sys2Proof.ProtocolReadProofs
end

section
/-! A protocol read whatever the bus answers (R131 to R147): its moves one by one, those that go on and those that end it, and what
every move that goes on keeps. -/

namespace Sys2Proof.Machine

/-! ### The moves of a read -/

/-- A move of a read that goes on (R133 to R136, R138), or that cannot be made (R120). -/
inductive ReadGoes (s : State) : State → Prop where
  | hung (p : Pending) : s.pending = some p → s.replies = [] → (∀ us, p.act ≠ .wait us) → p.act ≠ .close → ReadGoes s s
  | woke (began : Nat) (r : BusReply) (rest : List BusReply) :
      s.pending = some ⟨.send wakeFrame, began⟩ → s.seq = .waking → s.replies = r :: rest →
      ReadGoes s ((s.heard ⟨.send wakeFrame, began⟩ r rest).beginAct (.wait Config.wakeMicros))
  | ready (began : Nat) :
      s.pending = some ⟨.wait Config.wakeMicros, began⟩ → s.seq = .waking →
      ReadGoes s (startRequest ((s.pass Config.wakeMicros).endAct ⟨.wait Config.wakeMicros, began⟩ none))
  | asked (began : Nat) (r : BusReply) (rest : List BusReply) :
      s.pending = some ⟨.send (requestFrame s.start s.count), began⟩ → s.seq = .requesting → s.replies = r :: rest →
      r.accepted = true →
      ReadGoes s (startThink (s.heard ⟨.send (requestFrame s.start s.count), began⟩ r rest))
  | thought (began : Nat) :
      s.pending = some ⟨.wait Config.thinkMicros, began⟩ → s.seq = .awaitingResponse →
      ReadGoes s (startReceive ((s.pass Config.thinkMicros).endAct ⟨.wait Config.thinkMicros, began⟩ none))
  | received (began : Nat) (r : BusReply) (rest : List BusReply) (bytes : List Byte) :
      s.pending = some ⟨.recv (responseLen s.count), began⟩ → s.seq = .awaitingResponse → s.replies = r :: rest →
      r.received (responseLen s.count) = some bytes →
      ReadGoes s { s.heard ⟨.recv (responseLen s.count), began⟩ r rest with
        rxbuf := Memory.writeBytes s.rxbuf 0 bytes, rxlen := BitVec.ofNat 9 (responseLen s.count), seq := .verifying }
  | retried :
      s.pending = none → s.seq = .verifying → crc16 (checkedBytes s.rxbuf s.count) ≠ rxCrc s.rxbuf s.count →
      (satInc s.errcnt).toNat ≤ 5 →
      ReadGoes s (startAttempt { s with crc := crc16 (checkedBytes s.rxbuf s.count), errcnt := satInc s.errcnt })

/-- A move that ends a read (R134, R136, R138, R139). -/
inductive ReadEnds (s : State) : State → Prop where
  | requestFailed (began : Nat) (r : BusReply) (rest : List BusReply) :
      s.pending = some ⟨.send (requestFrame s.start s.count), began⟩ → s.seq = .requesting → s.replies = r :: rest →
      r.accepted = false →
      ReadEnds s ((s.heard ⟨.send (requestFrame s.start s.count), began⟩ r rest).settle.raise (.transportError 2#4))
  | receiveFailed (began : Nat) (r : BusReply) (rest : List BusReply) :
      s.pending = some ⟨.recv (responseLen s.count), began⟩ → s.seq = .awaitingResponse → s.replies = r :: rest →
      r.received (responseLen s.count) = none →
      ReadEnds s (State.raise (.transportError 3#4) (State.settle { s.heard ⟨.recv (responseLen s.count), began⟩ r rest with
        rxbuf := Memory.scramble s.rxbuf r.junk, rxlen := r.junkLen }))
  | matched :
      s.pending = none → s.seq = .verifying → crc16 (checkedBytes s.rxbuf s.count) = rxCrc s.rxbuf s.count →
      ReadEnds s (onMatch { s with crc := crc16 (checkedBytes s.rxbuf s.count) })
  | exhausted :
      s.pending = none → s.seq = .verifying → crc16 (checkedBytes s.rxbuf s.count) ≠ rxCrc s.rxbuf s.count →
      5 < (satInc s.errcnt).toNat →
      ReadEnds s (State.raise .protocolExhausted
        { s with crc := crc16 (checkedBytes s.rxbuf s.count), errcnt := satInc s.errcnt, seq := .fatal })

/-- A move of a command in progress whose state of the sequencer is none of the resting ones is a move of a read (R141). -/
theorem Move.read {s t : State} (h : Move s t) (hi : s.seq ≠ .idle) (hf : s.seq ≠ .fatal) : ReadGoes s t ∨ ReadEnds s t := by
  cases h with
  | hung p hp hr hwait hclose => exact .inl (.hung p hp hr hwait hclose)
  | opened _ _ _ _ _ _ _ hq => simp [hi, hf] at hq
  | closed _ _ _ hq => simp [hi, hf] at hq
  | woke began r rest hp hr ho hq => exact .inl (.woke began r rest hp hq hr)
  | ready began hp ho hq => exact .inl (.ready began hp hq)
  | asked began r rest hp hr ho hq =>
    cases hok : r.accepted with
    | true => exact .inl (.asked began r rest hp hq hr hok)
    | false => exact .inr (.requestFailed began r rest hp hq hr hok)
  | thought began hp ho hq => exact .inl (.thought began hp hq)
  | received began r rest hp hr ho hq =>
    unfold receiveAnswered
    split
    next bytes hbytes => exact .inl (.received began r rest bytes hp hq hr hbytes)
    next hnone => exact .inr (.receiveFailed began r rest hp hq hr hnone)
  | verified hp ho hq =>
    by_cases hsum : crc16 (checkedBytes s.rxbuf s.count) = rxCrc s.rxbuf s.count
    · rw [verify_match s hsum]
      exact .inr (.matched hp hq hsum)
    · cases hover : exhausted (satInc s.errcnt) with
      | true =>
        rw [verify_exhausted s hsum hover]
        exact .inr (.exhausted hp hq hsum ((exhausted_iff _).mp hover))
      | false =>
        rw [verify_retry s hsum hover]
        exact .inl (.retried hp hq hsum ((exhausted_eq_false_iff _).mp hover))

theorem ReadGoes.busy_eq {s t : State} (h : ReadGoes s t) : t.busy = s.busy := by cases h <;> rfl

theorem ReadGoes.inRead {s t : State} (h : ReadGoes s t) (hi : s.seq ≠ .idle) (hf : s.seq ≠ .fatal) :
    t.seq ≠ .idle ∧ t.seq ≠ .fatal := by
  cases h with
  | hung => exact ⟨hi, hf⟩
  | woke => exact ⟨hi, hf⟩
  | ready => exact ⟨by simp, by simp⟩
  | asked => exact ⟨by simp [startThink], by simp [startThink]⟩
  | thought => exact ⟨hi, hf⟩
  | received => exact ⟨by simp, by simp⟩
  | retried => exact ⟨by simp, by simp⟩

theorem ReadEnds.busy_eq {s t : State} (h : ReadEnds s t) : t.busy = false := by cases h <;> rfl

/-- The one induction over a read: what its entry has and every move that goes on keeps holds where the read stops in progress, and
held before the move that ended it. -/
theorem exec_readRegs_induction {s t : State} {a b : Byte} (P : State → Prop) (ho : s.opened = true)
    (hx : exec (.readRegs a b) s = .next t) (hentry : P (readEntry a b s.accept)) (hgoes : ∀ u v, P u → ReadGoes u v → P v) :
    (t.busy = true ∧ P t) ∨ ∃ u, P u ∧ ReadEnds u t := by
  let Q (u : State) : Prop := (u.busy = true ∧ u.seq ≠ .idle ∧ u.seq ≠ .fatal ∧ P u) ∨ ∃ v, P v ∧ ReadEnds v u
  have hmove : ∀ u v, u.busy = true → inProgress u = true → Q u → Move u v → Q v := by
    rintro u v hb - (⟨-, hi, hf, hu⟩ | ⟨w, -, hw⟩) huv
    · rcases huv.read hi hf with hv | hv
      · obtain ⟨hi', hf'⟩ := hv.inRead hi hf
        exact .inl ⟨hv.busy_eq.trans hb, hi', hf', hgoes u v hu hv⟩
      · exact .inr ⟨u, hu, hv⟩
    · simp [hw.busy_eq] at hb
  obtain ⟨-, rfl⟩ | ⟨hclosed, -⟩ := exec_readRegs_cases hx
  · have hQ := (runCommand_moves Q hmove (movesAllowed (readEntry a b s.accept)) (readEntry a b s.accept)
      (fun _ => startAttempt_progress _ ho) (.inl ⟨rfl, by simp [readEntry], by simp [readEntry], hentry⟩)).1
    rcases hQ with ⟨hb, -, -, hP⟩ | hended
    · exact .inl ⟨hb, hP⟩
    · exact .inr hended
  · simp [ho] at hclosed

/-! ### What a read leaves alone -/

/-- Where a `READ_REGS a, b` begun in `s` stands in `u`: what R131, R132 and R20 say of the fields the sequencer does not write. -/
structure ReadFrame (s : State) (a b : Byte) (u : State) : Prop where
  opened : u.opened = s.opened
  devaddr : u.devaddr = s.devaddr
  start : u.start = a
  count : u.count = b
  pvalid : u.pvalid = false
  hvalid : u.hvalid = false
  tvalid : u.tvalid = false
  memory : Memory.wf s.rxbuf → Memory.wf u.rxbuf ∧ ∀ k, b.toNat + 4 ≤ k → Memory.read u.rxbuf k = Memory.read s.rxbuf k

theorem ReadFrame.entry (s : State) (a b : Byte) : ReadFrame s a b (readEntry a b s.accept) :=
  ⟨rfl, rfl, rfl, rfl, rfl, rfl, rfl, fun hm => ⟨hm, fun _ _ => rfl⟩⟩

/-- Only the receive writes a field the frame speaks of: the buffer, inside the response's length. -/
theorem ReadFrame.goes {s u v : State} {a b : Byte} (h : ReadFrame s a b u) (hmove : ReadGoes u v) : ReadFrame s a b v := by
  have hfields := h
  obtain ⟨hopened, hdevaddr, hstart, hcount, hpvalid, hhvalid, htvalid, hmemory⟩ := hfields
  cases hmove with
  | hung => exact h
  | woke => exact ⟨hopened, hdevaddr, hstart, hcount, hpvalid, hhvalid, htvalid, hmemory⟩
  | ready => exact ⟨hopened, hdevaddr, hstart, hcount, hpvalid, hhvalid, htvalid, hmemory⟩
  | asked => exact ⟨hopened, hdevaddr, hstart, hcount, hpvalid, hhvalid, htvalid, hmemory⟩
  | thought => exact ⟨hopened, hdevaddr, hstart, hcount, hpvalid, hhvalid, htvalid, hmemory⟩
  | received began r rest bytes hp hq hr hbytes =>
    refine ⟨hopened, hdevaddr, hstart, hcount, hpvalid, hhvalid, htvalid, fun hm => ?_⟩
    obtain ⟨hwf, hbeyond⟩ := hmemory hm
    have hl := received_length hbytes
    exact ⟨wf_frame hwf hl, fun k hk => (read_frame_beyond hwf hl (by rwa [hcount])).trans (hbeyond k hk)⟩
  | retried => exact ⟨hopened, hdevaddr, hstart, hcount, hpvalid, hhvalid, htvalid, hmemory⟩

/-! ### What a read has cost -/

/-- The moves the attempt in progress has made, by the sequencer and the call in progress; 6 outside an attempt. -/
def attemptMoves (s : State) : Nat :=
  match s.pending, s.seq with
  | some ⟨.send _, _⟩, .waking => 0
  | some ⟨.wait _, _⟩, .waking => 1
  | some ⟨.send _, _⟩, .requesting => 2
  | some ⟨.wait _, _⟩, .awaitingResponse => 3
  | some ⟨.recv _, _⟩, .awaitingResponse => 4
  | none, .verifying => 5
  | _, _ => 6

/-- The attempts the counter still allows after the one in progress (R142). -/
def retriesLeft (s : State) : Nat := Config.errThreshold - s.errcnt.toNat

/-- The moves a read can still need: six in an attempt (R133 to R139). -/
def movesLeft (s : State) : Nat := 6 - attemptMoves s + 6 * retriesLeft s

/-- The answers a read can still need: the wake write's, the request's and the receive's in an attempt. -/
def answersLeft (s : State) : Nat := 3 - (attemptMoves s + 1) / 2 + 3 * retriesLeft s

/-- The wake writes a read can still make: one in an attempt. -/
def wakesLeft (s : State) : Nat := 1 - attemptMoves s + retriesLeft s

/-- The microseconds of the waits behind a read that began with the counter at 0: both waits in each attempt that has counted a
mismatch, and those of the attempt in progress (R133, R135). -/
def waited (s : State) : Nat :=
  2650 * s.errcnt.toNat + (if 2 ≤ attemptMoves s then 850 else 0) + (if 4 ≤ attemptMoves s then 1800 else 0)

theorem wakeWrites_append (trace : List BusEvent) (e : BusEvent) :
    wakeWrites (trace ++ [e]) = wakeWrites trace + if e.act = .send wakeFrame then 1 else 0 := by
  simp [wakeWrites, List.countP_append, List.countP_singleton]

/-- No request is a wake write: it has three bytes (R69, R70). -/
theorem requestFrame_ne_wakeFrame (a b : Byte) : requestFrame a b ≠ wakeFrame := by simp [requestFrame, wakeFrame]

/-- Every move that goes on is one of these: it could not be made, it takes the attempt one move on, or it begins the next one. -/
theorem ReadGoes.attempt_cases {s t : State} (h : ReadGoes s t) :
    (t = s ∧ s.replies = [] ∧ s.pending ≠ none)
      ∨ (attemptMoves s ≤ 4 ∧ attemptMoves t = attemptMoves s + 1 ∧ t.errcnt = s.errcnt)
      ∨ (attemptMoves s = 5 ∧ attemptMoves t = 0 ∧ t.errcnt = satInc s.errcnt ∧ (satInc s.errcnt).toNat ≤ 5) := by
  cases h with
  | hung p hp hr => exact .inl ⟨rfl, hr, by simp [hp]⟩
  | woke began r rest hp hq hr => exact .inr (.inl (by simp [attemptMoves, hp, hq]))
  | ready began hp hq => exact .inr (.inl (by simp [attemptMoves, hp, hq, startRequest]))
  | asked began r rest hp hq hr hok => exact .inr (.inl (by simp [attemptMoves, hp, hq, startThink]))
  | thought began hp hq => exact .inr (.inl (by simp [attemptMoves, hp, hq, startReceive]))
  | received began r rest bytes hp hq hr hbytes => exact .inr (.inl (by simp [attemptMoves, hp, hq]))
  | retried hp hq hsum hbelow => exact .inr (.inr ⟨by simp [attemptMoves, hp, hq], rfl, rfl, hbelow⟩)

/-- A move that is made uses up one of the moves left. -/
theorem ReadGoes.movesLeft_lt {s t : State} (h : ReadGoes s t) :
    (t = s ∧ s.replies = [] ∧ s.pending ≠ none) ∨ movesLeft t < movesLeft s := by
  have hsat := satInc_toNat s.errcnt
  unfold movesLeft retriesLeft Config.errThreshold
  rcases h.attempt_cases with hhung | ⟨hs, ht, herr⟩ | ⟨hs, ht, herr, hbelow⟩
  · exact .inl hhung
  · rw [ht, herr]; omega
  · rw [hs, ht, herr]; omega

/-- The answers used up are no more than those the read has come nearer its end by. -/
theorem ReadGoes.answersLeft_le {s t : State} (h : ReadGoes s t) :
    answersLeft t + s.replies.length ≤ answersLeft s + t.replies.length := by
  have hsat := satInc_toNat s.errcnt
  unfold answersLeft retriesLeft Config.errThreshold
  cases h with
  | hung => exact le_rfl
  | woke began r rest hp hq hr => simp [attemptMoves, hp, hq, hr]; omega
  | ready began hp hq => simp [attemptMoves, hp, hq, startRequest]
  | asked began r rest hp hq hr hok => simp [attemptMoves, hp, hq, hr, startThink]; omega
  | thought began hp hq => simp [attemptMoves, hp, hq, startReceive]
  | received began r rest bytes hp hq hr hbytes => simp [attemptMoves, hp, hq, hr]; omega
  | retried hp hq hsum hbelow => simp [attemptMoves, hp, hq, startAttempt]; omega

/-- Only the answer to a wake write adds one to those in the trace (R133). -/
theorem ReadGoes.wakesLeft_le {s t : State} (h : ReadGoes s t) :
    wakeWrites t.trace + wakesLeft t ≤ wakeWrites s.trace + wakesLeft s := by
  have hsat := satInc_toNat s.errcnt
  unfold wakesLeft retriesLeft Config.errThreshold
  cases h with
  | hung => exact le_rfl
  | woke began r rest hp hq hr => simp [wakeWrites_append, attemptMoves, hp, hq]; omega
  | ready began hp hq => simp [wakeWrites_append, attemptMoves, hp, hq, startRequest]
  | asked began r rest hp hq hr hok =>
    simp [wakeWrites_append, attemptMoves, hp, hq, startThink, requestFrame_ne_wakeFrame]
  | thought began hp hq => simp [wakeWrites_append, attemptMoves, hp, hq, startReceive]
  | received began r rest bytes hp hq hr hbytes => simp [wakeWrites_append, attemptMoves, hp, hq]
  | retried hp hq hsum hbelow => simp [attemptMoves, hp, hq, startAttempt]; omega

/-- The clock moves on by at least what a move has waited (R116). -/
theorem ReadGoes.waited_le {s t : State} (h : ReadGoes s t) : waited t + s.now ≤ waited s + t.now := by
  have hsat := satInc_toNat s.errcnt
  unfold waited
  cases h with
  | hung => exact le_rfl
  | woke began r rest hp hq hr => simp [attemptMoves, hp, hq]
  | ready began hp hq => simp [attemptMoves, hp, hq, startRequest, Config.wakeMicros]; omega
  | asked began r rest hp hq hr hok => simp [attemptMoves, hp, hq, startThink]
  | thought began hp hq => simp [attemptMoves, hp, hq, startReceive, Config.thinkMicros]; omega
  | received began r rest bytes hp hq hr hbytes => simp [attemptMoves, hp, hq]
  | retried hp hq hsum hbelow => simp [attemptMoves, hp, hq, startAttempt]; omega

end Sys2Proof.Machine
end

section
/-! The bounds of a protocol read (R142, R261), its endings (R147) and its frame (R131, R217), whatever the bus answers. -/

namespace Sys2Proof.Machine

/-! ### The bounds -/

/-- What a read begun in `s` has cost where it stands in `u`, with what it can still cost. -/
structure ReadCost (s u : State) : Prop where
  counted : s.errcnt.toNat ≤ u.errcnt.toNat
  wakes : wakeWrites u.trace + wakesLeft u ≤ wakeWrites s.trace + max 1 (6 - s.errcnt.toNat)
  answers : answersLeft u + s.replies.length ≤ 18 + u.replies.length
  clock : waited u + s.now ≤ 2650 * s.errcnt.toNat + u.now

theorem attemptMoves_readEntry (a b : Byte) (s : State) : attemptMoves (readEntry a b s.accept) = 0 := rfl

theorem ReadCost.entry (s : State) (a b : Byte) : ReadCost s (readEntry a b s.accept) where
  counted := le_rfl
  wakes := by
    rw [wakesLeft, attemptMoves_readEntry]
    show wakeWrites s.trace + (1 - 0 + (5 - s.errcnt.toNat)) ≤ _
    omega
  answers := by
    rw [answersLeft, attemptMoves_readEntry]
    show 3 - (0 + 1) / 2 + 3 * (5 - s.errcnt.toNat) + s.replies.length ≤ 18 + s.replies.length
    omega
  clock := by
    rw [waited, attemptMoves_readEntry]
    exact le_rfl

theorem ReadGoes.errcnt_le {s t : State} (h : ReadGoes s t) : s.errcnt.toNat ≤ t.errcnt.toNat := by
  have hsat := satInc_toNat s.errcnt
  have hcnt := s.errcnt.isLt
  rcases h.attempt_cases with ⟨rfl, -⟩ | ⟨-, -, herr⟩ | ⟨-, -, herr, -⟩
  · exact le_rfl
  · rw [herr]
  · rw [herr]; omega

theorem ReadCost.goes {s u v : State} (h : ReadCost s u) (hmove : ReadGoes u v) : ReadCost s v where
  counted := h.counted.trans hmove.errcnt_le
  wakes := hmove.wakesLeft_le.trans h.wakes
  answers := by
    have := h.answers
    have := hmove.answersLeft_le
    omega
  clock := by
    have := h.clock
    have := hmove.waited_le
    omega

/-- At the comparison both waits of the attempt are over. -/
theorem waited_verifying {s : State} (hp : s.pending = none) (hq : s.seq = .verifying) :
    waited s = 2650 * s.errcnt.toNat + 2650 := by
  simp [waited, attemptMoves, hp, hq]

/-- The move that ends a read uses at most one answer, which the attempt in progress still had to come. -/
theorem ReadEnds.answers_le {s t : State} (h : ReadEnds s t) : s.replies.length ≤ answersLeft s + t.replies.length := by
  unfold answersLeft
  cases h with
  | requestFailed began r rest hp hq hr => simp [attemptMoves, hp, hq, hr]
  | receiveFailed began r rest hp hq hr => simp [attemptMoves, hp, hq, hr]
  | matched => simp [onMatch]
  | exhausted => simp

/-- The move that ends a read makes no wake write. -/
theorem ReadEnds.wakeWrites_eq {s t : State} (h : ReadEnds s t) : wakeWrites t.trace = wakeWrites s.trace := by
  cases h with
  | requestFailed => simp [wakeWrites_append, requestFrame_ne_wakeFrame]
  | receiveFailed => simp [wakeWrites_append]
  | matched => rfl
  | exhausted => rfl

/-! ### Completion -/

/-- A read in progress is somewhere in an attempt, and before its last move if a call is in progress. -/
theorem inProgress_attemptMoves {s : State} (hprog : inProgress s = true) (hi : s.seq ≠ .idle) (hf : s.seq ≠ .fatal) :
    attemptMoves s ≤ 5 ∧ (s.pending ≠ none → attemptMoves s ≤ 4) := by
  cases hp : s.pending with
  | none =>
    have hq : s.seq = .verifying := by
      cases hq : s.seq <;> simp [inProgress, hp, hq] at hprog ⊢
    simp [attemptMoves, hp, hq]
  | some p =>
    obtain ⟨act, began⟩ := p
    obtain ⟨-, hq⟩ | ⟨rfl | rfl, hq⟩ | ⟨rfl, hq⟩ | ⟨rfl | rfl, hq⟩ := inProgress_call hprog hp
    · simp [hi, hf] at hq
    · simp [attemptMoves, hp, hq]
    · simp [attemptMoves, hp, hq]
    · simp [attemptMoves, hp, hq]
    · simp [attemptMoves, hp, hq]
    · simp [attemptMoves, hp, hq]

/-- Given the moves and the answers it can still need, a read in progress ends. -/
theorem runCommand_read_ends {n : Nat} {s : State} (hb : s.busy = true) (hprog : inProgress s = true) (hi : s.seq ≠ .idle)
    (hf : s.seq ≠ .fatal) (hmoves : movesLeft s ≤ n) (hanswers : answersLeft s ≤ s.replies.length) :
    (runCommand n s).busy = false := by
  obtain ⟨hin, hcall⟩ := inProgress_attemptMoves hprog hi hf
  induction n generalizing s with
  | zero => unfold movesLeft at hmoves; omega
  | succ n ih =>
    have hmove := tick_move s hprog
    rw [runCommand_succ n s hb]
    rcases hmove.read hi hf with hgoes | hends
    · obtain ⟨hi', hf'⟩ := hgoes.inRead hi hf
      have hb' := hgoes.busy_eq.trans hb
      have hprog' := move_progress hmove hprog hb'
      obtain ⟨hin', hcall'⟩ := inProgress_attemptMoves hprog' hi' hf'
      rcases hgoes.movesLeft_lt with ⟨-, hr, hp⟩ | hlt
      · have hwaiting := hcall hp
        simp only [hr, List.length_nil, answersLeft] at hanswers
        omega
      · have hle := hgoes.answersLeft_le
        exact ih hb' hprog' hi' hf' (by omega) (by omega) hin' hcall'
    · rw [runCommand_rest n _ hends.busy_eq, hends.busy_eq]

/-- The one move of `OPEN` or `CLOSE` ends it, answered (R117, R118). -/
theorem Move.ends_busCommand {s t : State} (h : Move s t) (hq : s.seq = .idle ∨ s.seq = .fatal) (hr : s.replies ≠ []) :
    t.busy = false := by
  cases h with
  | hung p hp hnone => exact absurd hnone hr
  | opened => exact openAnswered_busy ..
  | closed => rfl
  | woke _ _ _ _ _ _ hseq => simp [hseq] at hq
  | ready _ _ _ hseq => simp [hseq] at hq
  | asked _ _ _ _ _ _ hseq => simp [hseq] at hq
  | thought _ _ _ hseq => simp [hseq] at hq
  | received _ _ _ _ _ _ hseq => simp [hseq] at hq
  | verified _ _ hseq => simp [hseq] at hq

/-- With 18 answers there any command in progress ends (R142, R120). -/
theorem runCommand_answered_ends {s : State} (hb : s.busy = true) (hprog : inProgress s = true) (hr : 18 ≤ s.replies.length) :
    (runCommand maxTicks s).busy = false := by
  by_cases hq : s.seq = .idle ∨ s.seq = .fatal
  · have hdone := (tick_move s hprog).ends_busCommand hq (List.ne_nil_of_length_pos (by omega))
    rw [show maxTicks = 35 + 1 from rfl, runCommand_succ _ s hb, runCommand_rest _ _ hdone, hdone]
  · obtain ⟨hi, hf⟩ := not_or.mp hq
    have hretries : retriesLeft s ≤ 5 := Nat.sub_le _ _
    refine runCommand_read_ends hb hprog hi hf ?_ ?_
    · show movesLeft s ≤ 36
      unfold movesLeft
      omega
    · unfold answersLeft
      omega

/-! ### The frames received -/

theorem frames_append (trace : List BusEvent) (e : BusEvent) : frames (trace ++ [e]) = frames trace ++ frames [e] := by
  simp [frames]

/-- A call answered with no bytes, or not at all, is no frame. -/
theorem frames_singleton_other {e : BusEvent} (h : ∀ bytes, e.answer ≠ some (.data bytes)) : frames [e] = [] := by
  cases ha : e.answer with
  | none => simp [frames, ha]
  | some answer =>
    cases answer with
    | ok => simp [frames, ha]
    | fail => simp [frames, ha]
    | data bytes => exact absurd ha (h bytes)

theorem answerOf_send (bs : List Byte) (r : BusReply) (bytes : List Byte) : answerOf (.send bs) r ≠ .data bytes := by
  cases hr : r.accepted <;> simp [answerOf, hr]

/-- The frames of the trace once a write has been answered are those before. -/
theorem frames_send (trace : List BusEvent) (bs : List Byte) (r : BusReply) (began ended : Nat) :
    frames (trace ++ [⟨.send bs, some (answerOf (.send bs) r), began, ended, true⟩]) = frames trace := by
  rw [frames_append, frames_singleton_other (fun bytes h => answerOf_send bs r bytes (Option.some.inj h)), List.append_nil]

/-- Nor does a wait add one. -/
theorem frames_wait (trace : List BusEvent) (us began ended : Nat) :
    frames (trace ++ [⟨.wait us, none, began, ended, true⟩]) = frames trace := by
  rw [frames_append, frames_singleton_other (by simp), List.append_nil]

theorem frames_received (trace : List BusEvent) {n : Nat} {r : BusReply} {bytes : List Byte} (h : r.received n = some bytes)
    (began ended : Nat) :
    frames (trace ++ [⟨.recv n, some (answerOf (.recv n) r), began, ended, true⟩]) = frames trace ++ [bytes] := by
  rw [frames_append]
  simp [frames, answerOf, h]

theorem frames_failed (trace : List BusEvent) {n : Nat} {r : BusReply} (h : r.received n = none) (began ended : Nat) :
    frames (trace ++ [⟨.recv n, some (answerOf (.recv n) r), began, ended, true⟩]) = frames trace := by
  rw [frames_append, frames_singleton_other (by simp [answerOf, h]), List.append_nil]

/-- `CRC` and `ERRCNT` after the frames `bad` have been compared and none has matched (R137, R138). -/
structure Counted (s : State) (b : Byte) (bad : List (List Byte)) (u : State) : Prop where
  mismatched : ∀ f ∈ bad, frameMatches b f = false
  errcnt : u.errcnt.toNat = min 255 (s.errcnt.toNat + bad.length)
  crcKept : bad = [] → u.crc = s.crc
  crcLast : ∀ init f, bad = init ++ [f] → u.crc = frameCrc b f

/-- One more mismatch. -/
theorem Counted.append {s u v : State} {b : Byte} {bad : List (List Byte)} {bytes : List Byte} (h : Counted s b bad u)
    (hf : frameMatches b bytes = false) (herr : v.errcnt = satInc u.errcnt) (hcrc : v.crc = frameCrc b bytes) :
    Counted s b (bad ++ [bytes]) v where
  mismatched f hmem := by
    rcases List.mem_append.mp hmem with hmem | hmem
    · exact h.mismatched f hmem
    · rwa [List.mem_singleton.mp hmem]
  errcnt := by
    have := h.errcnt
    rw [herr, satInc_toNat, List.length_append, List.length_singleton]
    omega
  crcKept hnil := by simp at hnil
  crcLast init f heq := by
    obtain ⟨-, hlast⟩ := List.append_inj' heq rfl
    rw [hcrc, List.cons.inj hlast |>.1]

/-- Where a read begun in `s` stands in `u`, `bad` the frames it has compared: the buffer holds a frame not yet compared where the
comparison is due (R136, R137). -/
structure Compared (s : State) (b : Byte) (bad : List (List Byte)) (u : State) : Prop extends Counted s b bad u where
  count : u.count = b
  memory : Memory.wf u.rxbuf
  between : u.seq ≠ .verifying → frames u.trace = frames s.trace ++ bad
  due : u.seq = .verifying → ∃ bytes m, frames u.trace = frames s.trace ++ (bad ++ [bytes]) ∧ Memory.wf m
    ∧ u.rxbuf = Memory.writeBytes m 0 bytes ∧ bytes.length = responseLen b

theorem Compared.entry {s : State} (a b : Byte) (hm : Memory.wf s.rxbuf) : Compared s b [] (readEntry a b s.accept) where
  mismatched := by simp
  errcnt := (Nat.min_eq_right (Nat.le_of_lt_succ s.errcnt.isLt)).symm
  crcKept _ := rfl
  crcLast := by simp
  count := rfl
  memory := hm
  between _ := (List.append_nil _).symm
  due hq := by simp [readEntry] at hq

/-- The comparison of the buffer is that of the frame just received (R137). -/
theorem Compared.sum_eq {s u : State} {b : Byte} {bad : List (List Byte)} (h : Compared s b bad u) (hq : u.seq = .verifying) :
    ∃ bytes, frames u.trace = frames s.trace ++ (bad ++ [bytes])
      ∧ crc16 (checkedBytes u.rxbuf u.count) = frameCrc b bytes
      ∧ (frameMatches b bytes = true ↔ crc16 (checkedBytes u.rxbuf u.count) = rxCrc u.rxbuf u.count) := by
  obtain ⟨bytes, m, hframes, hm, hbuf, hl⟩ := h.due hq
  have hsum := checkedBytes_frame m b bytes hm hl
  refine ⟨bytes, hframes, by rw [h.count, hbuf, hsum], ?_⟩
  rw [h.count, hbuf, hsum, rxCrc_frame m b bytes hm hl, frameMatches, beq_iff_eq]

/-- A move between two comparisons that adds no frame. -/
theorem Compared.stay {s u v : State} {b : Byte} {bad : List (List Byte)} (h : Compared s b bad u) (hu : u.seq ≠ .verifying)
    (hv : v.seq ≠ .verifying) (hframes : frames v.trace = frames u.trace) (herr : v.errcnt = u.errcnt) (hcrc : v.crc = u.crc)
    (hcount : v.count = u.count) (hbuf : v.rxbuf = u.rxbuf) : Compared s b bad v where
  mismatched := h.mismatched
  errcnt := herr ▸ h.errcnt
  crcKept := hcrc ▸ h.crcKept
  crcLast := hcrc ▸ h.crcLast
  count := hcount.trans h.count
  memory := hbuf ▸ h.memory
  between _ := hframes.trans (h.between hu)
  due hq := absurd hq hv

theorem Compared.goes {s u v : State} {b : Byte} {bad : List (List Byte)} (h : Compared s b bad u) (hmove : ReadGoes u v) :
    ∃ bad', Compared s b bad' v := by
  cases hmove with
  | hung => exact ⟨bad, h⟩
  | woke began r rest hp hq hr =>
    exact ⟨bad, h.stay (by simp [hq]) (by simp [hq]) (frames_send ..) rfl rfl rfl rfl⟩
  | ready began hp hq => exact ⟨bad, h.stay (by simp [hq]) (by simp) (frames_wait ..) rfl rfl rfl rfl⟩
  | asked began r rest hp hq hr hok =>
    exact ⟨bad, h.stay (by simp [hq]) (by simp [startThink]) (frames_send ..) rfl rfl rfl rfl⟩
  | thought began hp hq =>
    exact ⟨bad, h.stay (by simp [hq]) (by simp [hq]) (frames_wait ..) rfl rfl rfl rfl⟩
  | received began r rest bytes hp hq hr hbytes =>
    have hl := received_length hbytes
    refine ⟨bad, ⟨h.mismatched, h.errcnt, h.crcKept, h.crcLast⟩, h.count, wf_frame h.memory hl, by simp, fun _ => ?_⟩
    refine ⟨bytes, u.rxbuf, ?_, h.memory, rfl, by rw [hl, h.count]⟩
    rw [← List.append_assoc, ← h.between (by simp [hq])]
    exact frames_received u.trace hbytes ..
  | retried hp hq hsum hbelow =>
    obtain ⟨bytes, hframes, hcrc, hiff⟩ := h.sum_eq hq
    have hf : frameMatches b bytes = false := by simpa [hsum] using hiff
    exact ⟨bad ++ [bytes], h.toCounted.append hf rfl hcrc, h.count, h.memory, fun _ => hframes, by simp⟩

end Sys2Proof.Machine

namespace Sys2Proof.ProtocolReadProofs
open Sys2Proof.Machine

/-- Settles O23: what a read has cost and can still cost, at its entry and at every move. -/
theorem attemptsAreBounded : Obligations.AttemptsAreBounded := by
  intro s t a b hx
  cases ho : s.opened with
  | false =>
    rw [exec_readRegs_noHandle a b ho] at hx
    cases hx
    exact ⟨Nat.le_add_right _ _, Nat.le_add_right _ _⟩
  | true =>
    obtain ⟨-, hcost⟩ | ⟨u, hcost, hends⟩ :=
      exec_readRegs_induction (ReadCost s) ho hx (ReadCost.entry s a b) (fun _ _ hu hmove => hu.goes hmove)
    · have := hcost.wakes
      have := hcost.answers
      omega
    · have := hcost.wakes
      have := hcost.answers
      have := hends.wakeWrites_eq
      have := hends.answers_le
      omega

/-- Settles O24: 36 moves and 18 answers are what a command can still need at most. -/
theorem answeredCommandCompletes : Obligations.AnsweredCommandCompletes := by
  refine ⟨fun s a b ho hreset hr => ⟨_, exec_readRegs_handle a b ho hreset, ?entry⟩, fun s h hb hreset hr => ?busy⟩
  case entry => exact runCommand_answered_ends rfl (startAttempt_progress _ ho) hr
  case busy =>
    exact ⟨_, step_inProgress hb (h.executing hb) hreset, runCommand_answered_ends hb (h.executing hb) hr⟩

/-- Settles O50: at the comparison that ends a read both waits of its attempt are over, and with them those of the attempts the
counter has counted. -/
theorem readTakesItsTime : Obligations.ReadTakesItsTime := by
  intro s t a b ho hx hb
  obtain ⟨hbusy, -⟩ | ⟨u, hcost, hends⟩ :=
    exec_readRegs_induction (ReadCost s) ho hx (ReadCost.entry s a b) (fun _ _ hu hmove => hu.goes hmove)
  · simp [hb] at hbusy
  · have hcounted := hcost.counted
    have hclock := hcost.clock
    have hsat := satInc_toNat u.errcnt
    cases hends with
    | requestFailed => exact ⟨fun h => by simp [CmdFault.code] at h, fun h => by simp [CmdFault.code] at h⟩
    | receiveFailed => exact ⟨fun h => by simp [CmdFault.code] at h, fun h => by simp [CmdFault.code] at h⟩
    | matched hp hq =>
      refine ⟨fun _ => ?_, fun h => by simp [onMatch] at h⟩
      rw [waited_verifying hp hq] at hclock
      show s.now + 2650 ≤ u.now
      omega
    | exhausted hp hq hsum hover =>
      refine ⟨fun h => by simp [CmdFault.code] at h, fun _ hzero => ?_⟩
      have hzero : s.errcnt.toNat = 0 := by rw [hzero]; rfl
      rw [waited_verifying hp hq] at hclock
      show s.now + 15900 ≤ u.now
      omega

/-- Settles O28: a read with a handle has cleared `PVALID`, and only a match sets it. -/
theorem noPartialResult : Obligations.NoPartialResult := by
  intro s t a b k ho hx hb herr
  have hpvalid : t.pvalid = false := by
    obtain ⟨-, hframe⟩ | ⟨u, hframe, hends⟩ :=
      exec_readRegs_induction (ReadFrame s a b) ho hx (ReadFrame.entry s a b) (fun _ _ hu hmove => hu.goes hmove)
    · exact hframe.pvalid
    · cases hends with
      | requestFailed => exact hframe.pvalid
      | receiveFailed => exact hframe.pvalid
      | matched => exact absurd rfl herr
      | exhausted => exact hframe.pvalid
  exact ⟨hpvalid, portRead_payload_unverified hpvalid k⟩

end Sys2Proof.ProtocolReadProofs
end

section
/-! The endings of a protocol read (R147), what each leaves alone (R131, R20), and the wake answer that changes nothing (R133). -/

namespace Sys2Proof.Machine

/-! ### The frame at the end -/

/-- The move that ends a read leaves what the moves before it leave; the buffer too, unless the receive has failed (R136). -/
theorem ReadFrame.ends {s u t : State} {a b : Byte} (h : ReadFrame s a b u) (hends : ReadEnds u t) :
    t.opened = s.opened ∧ t.devaddr = s.devaddr ∧ t.start = a ∧ t.count = b ∧ t.hvalid = false ∧ t.tvalid = false
      ∧ (t.errphase ≠ 3#4 → t.rxbuf = u.rxbuf) := by
  obtain ⟨hopened, hdevaddr, hstart, hcount, -, hhvalid, htvalid, -⟩ := h
  cases hends with
  | requestFailed => exact ⟨hopened, hdevaddr, hstart, hcount, hhvalid, htvalid, fun _ => rfl⟩
  | receiveFailed => exact ⟨hopened, hdevaddr, hstart, hcount, hhvalid, htvalid, fun h => absurd rfl h⟩
  | matched => exact ⟨hopened, hdevaddr, hstart, hcount, hhvalid, htvalid, fun _ => rfl⟩
  | exhausted => exact ⟨hopened, hdevaddr, hstart, hcount, hhvalid, htvalid, fun _ => rfl⟩

/-- A read with a handle, in progress or ended: the frame of R131 and R132, and the buffer beyond the response (R20). -/
theorem exec_readRegs_frame {s t : State} {a b : Byte} (ho : s.opened = true) (hx : exec (.readRegs a b) s = .next t) :
    t.opened = s.opened ∧ t.devaddr = s.devaddr ∧ t.start = a ∧ t.count = b ∧ t.hvalid = false ∧ t.tvalid = false
      ∧ (Memory.wf s.rxbuf → t.busy = true ∨ t.errphase ≠ 3#4 →
          ∀ k, b.toNat + 4 ≤ k → Memory.read t.rxbuf k = Memory.read s.rxbuf k) := by
  obtain ⟨-, hframe⟩ | ⟨u, hframe, hends⟩ :=
    exec_readRegs_induction (ReadFrame s a b) ho hx (ReadFrame.entry s a b) (fun _ _ hu hmove => hu.goes hmove)
  · exact ⟨hframe.opened, hframe.devaddr, hframe.start, hframe.count, hframe.hvalid, hframe.tvalid,
      fun hm _ => (hframe.memory hm).2⟩
  · obtain ⟨hopened, hdevaddr, hstart, hcount, hhvalid, htvalid, hbuf⟩ := hframe.ends hends
    refine ⟨hopened, hdevaddr, hstart, hcount, hhvalid, htvalid, fun hm hphase k hk => ?_⟩
    have hphase : t.errphase ≠ 3#4 := hphase.resolve_left (by simp [hends.busy_eq])
    rw [hbuf hphase]
    exact (hframe.memory hm).2 k hk

/-! ### A trace put before -/

/-- The same state with more events before its trace. -/
def State.onto (before : List BusEvent) (s : State) : State := { s with trace := before ++ s.trace }

theorem endAct_onto (before : List BusEvent) (p : Pending) (answer : Option BusAnswer) (s : State) :
    (s.onto before).endAct p answer = (s.endAct p answer).onto before := by
  simp [State.onto, State.endAct]

theorem verify_onto (before : List BusEvent) (s : State) : verify (s.onto before) = (verify s).onto before := by
  by_cases h1 : crc16 (checkedBytes s.rxbuf s.count) = rxCrc s.rxbuf s.count
  · rw [verify_match s h1, verify_match (s.onto before) h1]; rfl
  · cases h2 : exhausted (satInc s.errcnt) with
    | false => rw [verify_retry s h1 h2, verify_retry (s.onto before) h1 h2]; rfl
    | true => rw [verify_exhausted s h1 h2, verify_exhausted (s.onto before) h1 h2]; rfl

theorem answered_onto (before : List BusEvent) (act : BusAct) (r : BusReply) (s : State) :
    answered act r (s.onto before) = (answered act r s).onto before := by
  cases act with
  | opening addr => simp only [answered, openAnswered]; cases r.accepted <;> rfl
  | send bytes =>
    have hseq : (s.onto before).seq = s.seq := rfl
    simp only [answered, sendAnswered, requestAnswered, hseq]
    cases s.seq with
    | requesting => cases r.accepted <;> rfl
    | idle => rfl
    | waking => rfl
    | awaitingResponse => rfl
    | verifying => rfl
    | fatal => rfl
  | recv n => simp only [answered, receiveAnswered]; cases r.received n <;> rfl
  | close => rfl
  | wait us => rfl

theorem transact_onto (before : List BusEvent) (p : Pending) (s : State) :
    transact p (s.onto before) = (transact p s).onto before := by
  have hreplies : (s.onto before).replies = s.replies := rfl
  unfold transact
  rw [hreplies]
  cases s.replies with
  | nil => rfl
  | cons r rest =>
    have hheard := endAct_onto before p (some (answerOf p.act r)) ({ s with replies := rest }.pass 0)
    exact (congrArg (answered p.act r) hheard).trans (answered_onto before p.act r _)

theorem waitElapsed_onto (before : List BusEvent) (s : State) : waitElapsed (s.onto before) = (waitElapsed s).onto before := by
  have hseq : (s.onto before).seq = s.seq := rfl
  unfold waitElapsed
  rw [hseq]
  cases s.seq <;> rfl

/-- A move adds to the trace and never looks at it. -/
theorem tick_onto (before : List BusEvent) (s : State) : tick (s.onto before) = (tick s).onto before := by
  have hpending : (s.onto before).pending = s.pending := rfl
  unfold tick
  rw [hpending]
  cases s.pending with
  | none =>
    by_cases hv : s.seq = .verifying
    · exact (if_pos hv).trans ((verify_onto before s).trans (congrArg (State.onto before) (if_pos hv).symm))
    · exact (if_neg hv).trans (congrArg (State.onto before) (if_neg hv).symm)
  | some p =>
    obtain ⟨act, began⟩ := p
    cases act with
    | wait us =>
      exact (congrArg waitElapsed (endAct_onto before _ none (s.pass us))).trans (waitElapsed_onto before _)
    | opening addr => exact transact_onto before _ s
    | send bytes => exact transact_onto before _ s
    | recv n => exact transact_onto before _ s
    | close => exact congrArg closeAnswered (endAct_onto before _ (some .ok) (s.pass 0))

theorem runCommand_onto (n : Nat) (before : List BusEvent) (s : State) :
    runCommand n (s.onto before) = (runCommand n s).onto before := by
  induction n generalizing s with
  | zero => rfl
  | succ n ih =>
    cases hb : s.busy with
    | false => rw [runCommand_rest _ s hb, runCommand_rest _ (s.onto before) hb]
    | true => rw [runCommand_succ _ s hb, runCommand_succ _ (s.onto before) hb, tick_onto, ih]

/-! ### The answer to the wake write -/

/-- The event of a read's first wake write, answered `w` (R133). -/
def State.wakeEvent (s : State) (a b : Byte) (w : BusReply) : BusEvent where
  act := .send wakeFrame
  answer := some (answerOf (.send wakeFrame) w)
  began := s.now
  ended := ((s.entered a b).pass 0).now
  finished := true

/-- What a read leaves once its first wake write has been answered, but for its trace: the answer has no part in it (R133). -/
def State.woken (s : State) (a b : Byte) (rest : List BusReply) : State :=
  { (({ s.entered a b with replies := rest, seq := .waking }.pass 0).beginAct (.wait Config.wakeMicros)) with trace := [] }

theorem tick_wakeWrite_entered (s : State) (a b : Byte) (w : BusReply) (rest : List BusReply) :
    tick (startAttempt ({ s with replies := w :: rest }.entered a b))
      = (s.woken a b rest).onto (s.trace ++ [s.wakeEvent a b w]) := by
  rw [tick_wakeWrite _ wakeFrame s.now w rest rfl rfl rfl, State.onto, State.woken, List.append_nil]
  rfl

/-- A whole read by the answer to its first wake write: the event of that, and the rest of the read without it. -/
theorem exec_readRegs_woken {s : State} (a b : Byte) (w : BusReply) (rest : List BusReply) (ho : s.opened = true)
    (hreset : resetNext s = false) : exec (.readRegs a b) { s with replies := w :: rest }
      = .next ((runCommand 35 (s.woken a b rest)).onto (s.trace ++ [s.wakeEvent a b w])) := by
  rw [exec_readRegs_entered (s := { s with replies := w :: rest }) a b ho hreset, show maxTicks = 35 + 1 from rfl,
    runCommand_succ 35 _ rfl, tick_wakeWrite_entered, runCommand_onto]

end Sys2Proof.Machine

namespace Sys2Proof.ProtocolReadProofs
open Sys2Proof.Machine

/-- Settles O29: without a handle the fault of R131; with one the frame of every move, and the buffer by the last. -/
theorem readLeavesTheRestAlone : Obligations.ReadLeavesTheRestAlone := by
  intro s t a b hx
  cases ho : s.opened with
  | false =>
    rw [exec_readRegs_noHandle a b ho] at hx
    cases hx
    exact ⟨ho, rfl, rfl, rfl, List.prefix_rfl, fun h => by simp at h,
      fun _ => ⟨rfl, rfl, rfl, rfl, rfl, rfl, rfl, rfl, rfl⟩, fun _ _ _ _ => rfl⟩
  | true =>
    obtain ⟨hopened, hdevaddr, hstart, hcount, hhvalid, htvalid, hbuf⟩ := exec_readRegs_frame ho hx
    obtain ⟨-, rfl⟩ | ⟨hclosed, -⟩ := exec_readRegs_cases hx
    · refine ⟨hopened.trans ho, hdevaddr, runCommand_host _ _, runCommand_results _ _ (fun _ => startAttempt_progress _ ho),
        readEntry_trace_prefix a b ho _, fun _ => ⟨hstart, hcount, hhvalid, htvalid, ?_, ?_, ?_⟩, fun h => by simp at h, hbuf⟩
      · simp [hhvalid]
      · simp [htvalid]
      · simp [htvalid]
    · simp [ho] at hclosed

/-- Settles O30: the rest of the read is the same state under another trace; one move by itself likewise. -/
theorem wakeAnswerIsDiscarded : Obligations.WakeAnswerIsDiscarded := by
  refine ⟨fun s t a b w w' rest ho hreset hx => ?read, fun s p bytes w w' rest hp ha hq => ?move⟩
  case read =>
    rw [exec_readRegs_woken a b w rest ho hreset] at hx
    cases hx
    refine ⟨s.wakeEvent a b w, some (answerOf (.send wakeFrame) w'), (runCommand 35 (s.woken a b rest)).trace, rfl,
      List.append_assoc .., ?_⟩
    rw [exec_readRegs_woken a b w' rest ho hreset, State.onto, List.append_assoc]
    rfl
  case move =>
    have hmove (r : BusReply) :=
      tick_wakeWrite { s with replies := r :: rest } bytes p.began r rest (pending_eq_mk hp ha) hq rfl
    rw [hmove w, hmove w']
    exact ⟨_, some (answerOf (.send bytes) w'), rfl, rfl⟩

/-- Settles O27: without a handle the fault of R131; with one the move that ended the read, with the frames compared before it. -/
theorem resultsByEnding : Obligations.ResultsByEnding := by
  intro s t a b hx hm hb
  cases ho : s.opened with
  | false =>
    rw [exec_readRegs_noHandle a b ho] at hx
    cases hx
    exact ⟨[], (List.append_nil _).symm, .inl ⟨rfl, rfl, rfl, rfl, rfl, rfl, rfl, rfl⟩⟩
  | true =>
    let P (u : State) : Prop := ReadFrame s a b u ∧ ∃ bad, Compared s b bad u
    have hentry : P (readEntry a b s.accept) := ⟨.entry s a b, [], .entry a b hm⟩
    have hgoes : ∀ u v, P u → ReadGoes u v → P v := fun u v ⟨hframe, bad, hbad⟩ hmove => ⟨hframe.goes hmove, hbad.goes hmove⟩
    obtain ⟨hbusy, -⟩ | ⟨u, ⟨hframe, bad, hbad⟩, hends⟩ := exec_readRegs_induction P ho hx hentry hgoes
    · simp [hb] at hbusy
    · cases hends with
      | requestFailed began r rest hp hq hr hfail =>
        refine ⟨bad, (frames_send ..).trans (hbad.between (by simp [hq])), .inr (.inr (.inr ⟨rfl, rfl, hbad.mismatched,
          hbad.errcnt, hframe.pvalid, restSeq_eq _, hbad.crcKept, hbad.crcLast, ?_⟩))⟩
        refine ⟨_, List.getLast?_concat, by simp [answerOf, hfail], .inl ⟨?_, rfl⟩⟩
        simp [requestFrame, hframe.start, hframe.count, Config.funcRead]
      | receiveFailed began r rest hp hq hr hfail =>
        refine ⟨bad, (frames_failed _ hfail ..).trans (hbad.between (by simp [hq])), .inr (.inr (.inr ⟨rfl, rfl,
          hbad.mismatched, hbad.errcnt, hframe.pvalid, restSeq_eq _, hbad.crcKept, hbad.crcLast, ?_⟩))⟩
        refine ⟨_, List.getLast?_concat, by simp [answerOf, hfail], .inr ⟨?_, rfl⟩⟩
        simp [responseLen, hframe.count]
      | matched hp hq hsum =>
        obtain ⟨bytes, hframes, hcrc, hiff⟩ := hbad.sum_eq hq
        exact ⟨bad ++ [bytes], hframes, .inr (.inl ⟨rfl, rfl, rfl, rfl, rfl, rfl, bad, bytes, rfl, hbad.mismatched,
          hiff.mpr hsum, hcrc⟩)⟩
      | exhausted hp hq hsum hover =>
        obtain ⟨bytes, hframes, hcrc, hiff⟩ := hbad.sum_eq hq
        have hf : frameMatches b bytes = false := by simpa [hsum] using hiff
        have hcounted := hbad.toCounted.append (v := State.raise .protocolExhausted
          { u with crc := crc16 (checkedBytes u.rxbuf u.count), errcnt := satInc u.errcnt, seq := .fatal }) hf rfl hcrc
        exact ⟨bad ++ [bytes], hframes, .inr (.inr (.inl ⟨rfl, rfl, rfl, hcounted.mismatched, hcounted.errcnt, hover,
          hframe.pvalid, rfl, bad, bytes, rfl, hcrc⟩))⟩

end Sys2Proof.ProtocolReadProofs
end

section
/-! The host's sequences around a read: the sampling loop (R183, R184) and the decoded form (R186, R167). -/

namespace Sys2Proof.Machine

/-! ### A read inside a sequence -/

/-- What a read of `b` bytes that matches at once with the frame `bytes` leaves, as the host's sequence goes on from it. -/
structure ReadMatched (s t : State) (b : Byte) (bytes : List Byte) : Prop where
  busy : t.busy = false
  opened : t.opened = true
  lasterr : t.lasterr = 0#8
  pvalid : t.pvalid = true
  count : t.count = b
  memory : Memory.wf t.rxbuf
  frame : ∀ k, k < b.toNat + 4 → Memory.read t.rxbuf k = bytes.getD k 0#8
  payload : payload t = (bytes.drop 2).take b.toNat
  results : t.results = s.results
  wakes : wakeWrites t.trace = wakeWrites s.trace + 1
  clock : s.now + 2650 ≤ t.now

theorem exec_readRegs_readMatched {s : State} {a b : Byte} {x : Attempt} {bytes : List Byte} {rest : List BusReply}
    (ho : s.opened = true) (hreset : resetNext s = false) (hm : Memory.wf s.rxbuf) (hr : s.replies = x.replies ++ rest)
    (hx : x.delivers b bytes) (hf : frameMatches b bytes = true) :
    ∃ t, exec (.readRegs a b) s = .next t ∧ t.host = s.host ∧ t.replies = rest ∧ ReadMatched s t b bytes := by
  obtain ⟨now, draws, trace, hlater, hexec⟩ := exec_readRegs_matched (a := a) ho hreset hm hr hx hf
  have hl : bytes.length = responseLen b := received_length hx.2
  exact ⟨_, hexec, rfl, rfl, rfl, ho, rfl, rfl, rfl, wf_frame hm hl, fun k hk => read_frame_inside hm hl hk,
    payload_matched (s := s.entered a b) hm hl .., rfl,
    wakeWrites_attempt (s := s.entered a b) hlater, hlater.clock⟩

theorem decode_window (kind : Window) : decode kind.word = .ok (.readRegs kind.range.1 kind.range.2) :=
  decode_encode (.readRegs _ _) rfl

/-- At rest, the word of a window's read that matches at once; the host's next action is no reset. -/
theorem step_read_window {s : State} {kind : Window} {rest : List HostAction} {x : Attempt} {bytes : List Byte}
    {more : List BusReply} (hb : s.busy = false) (hh : s.host = .issue kind.word :: rest)
    (hreset : resetNext (s.withHost rest) = false) (ho : s.opened = true) (hm : Memory.wf s.rxbuf)
    (hr : s.replies = x.replies ++ more) (hx : x.delivers kind.range.2 bytes) (hf : frameMatches kind.range.2 bytes = true) :
    ∃ t, step s = .next t ∧ t.host = rest ∧ t.replies = more ∧ ReadMatched s t kind.range.2 bytes := by
  obtain ⟨t, hexec, hhost, hreplies, h⟩ :=
    exec_readRegs_readMatched (s := takeCommand rest s) (a := kind.range.1) ho hreset hm hr hx hf
  have hclock := (Nat.add_le_add_right (takeCommand_now_le rest s) 2650).trans h.clock
  exact ⟨t, (step_command hb hh (decode_window kind)).trans hexec, hhost, hreplies, h.busy, h.opened, h.lasterr, h.pvalid, h.count,
    h.memory, h.frame, h.payload, h.results, h.wakes, hclock⟩

/-- At rest without a handle, the word of a window's read: `BadState`, and the decoder as it was (R131, R147). -/
theorem step_read_window_refused {s : State} {kind : Window} {rest : List HostAction} (hb : s.busy = false)
    (hh : s.host = .issue kind.word :: rest) (ho : s.opened = false) :
    ∃ t, step s = .next t ∧ t.busy = false ∧ t.host = rest ∧ t.lasterr = 0x05#8 ∧ t.results = s.results
      ∧ t.hum = s.hum ∧ t.hvalid = s.hvalid ∧ t.tneg = s.tneg ∧ t.tmag = s.tmag ∧ t.tvalid = s.tvalid :=
  ⟨_, (step_command hb hh (decode_window kind)).trans (exec_readRegs_noHandle (s := takeCommand rest s) _ _ ho),
    rfl, rfl, rfl, rfl, rfl, rfl, rfl, rfl, rfl⟩

/-! ### The sampling loop -/

/-- Two steps of the loop are one read of it (R183). -/
theorem run_sampleRead {s : State} {kind : Window} {left d : Nat} {rest : List HostAction} {x : Attempt} {bytes : List Byte}
    {more : List BusReply} (hb : s.busy = false) (hh : s.host = .sampleRead kind left d :: rest) (ho : s.opened = true)
    (hm : Memory.wf s.rxbuf) (hr : s.replies = x.replies ++ more) (hx : x.delivers kind.range.2 bytes)
    (hf : frameMatches kind.range.2 bytes = true) :
    ∃ t : State, Host.Core.run core 2 s = .next t ∧ t.host = .sampleCheck kind left d :: rest ∧ t.replies = more
      ∧ ReadMatched s t kind.range.2 bytes := by
  let u := s.withHost (.issue kind.word :: .sampleCheck kind left d :: rest)
  have hread : step s = .next u := step_hostAct hb hh (by simp) (by simp)
  obtain ⟨t, hstep, hhost, hreplies, h⟩ := step_read_window (s := u) hb rfl rfl ho hm hr hx hf
  exact ⟨t, (run_step hread 1).trans (run_one hstep), hhost, hreplies, h.busy, h.opened, h.lasterr, h.pvalid, h.count, h.memory,
    h.frame, h.payload, h.results, h.wakes, h.clock⟩

/-- After the last read, without a fault, the host has its payload (R183). -/
theorem step_sampleCheck_last {s : State} {kind : Window} {d : Nat} {rest : List HostAction} (hb : s.busy = false)
    (herr : s.lasterr = 0#8) (hh : s.host = .sampleCheck kind 0 d :: rest) :
    step s = .next ((s.deliver (.sampleResult (payload s))).withHost rest) := by
  rw [step_hostAct hb hh (by simp) (by simp)]
  simp [hostAct, sampleNext, herr]

/-- After a read before the last, without a fault, the delay and the next read follow (R183). -/
theorem step_sampleCheck_more {s : State} {kind : Window} {left d : Nat} {rest : List HostAction} (hb : s.busy = false)
    (herr : s.lasterr = 0#8) (hh : s.host = .sampleCheck kind (left + 1) d :: rest) :
    step s = .next (s.withHost (.waitSeconds d :: .sampleRead kind left d :: rest)) := by
  rw [step_hostAct hb hh (by simp) (by simp)]
  simp [hostAct, sampleNext, herr]

/-- The loop with the reads `xs` and a last one to go, all matching at once. -/
theorem run_sample {kind : Window} {d : Nat} {rest : List HostAction} {last : Attempt} {bytes : List Byte}
    {more : List BusReply} (hlast : last.delivers kind.range.2 bytes) (hf : frameMatches kind.range.2 bytes = true)
    (xs : List Attempt) (hxs : ∀ x ∈ xs, x.matching kind.range.2) (s : State) (hb : s.busy = false) (ho : s.opened = true)
    (hm : Memory.wf s.rxbuf) (hh : s.host = .sampleRead kind xs.length d :: rest)
    (hr : s.replies = (xs ++ [last]).flatMap Attempt.replies ++ more) :
    ∃ t : State, Host.Core.run core (4 * xs.length + 3) s = .next t ∧ t.host = rest
      ∧ t.results = s.results ++ [.sampleResult ((bytes.drop 2).take kind.range.2.toNat)]
      ∧ wakeWrites t.trace = wakeWrites s.trace + (xs.length + 1)
      ∧ s.now + xs.length * (d * 1000000) + (xs.length + 1) * 2650 ≤ t.now := by
  induction xs generalizing s with
  | nil =>
    obtain ⟨u, hrun, hhost, -, h⟩ := run_sampleRead (x := last) (more := more) hb hh ho hm (by simpa using hr) hlast hf
    have hcheck := step_sampleCheck_last h.busy h.lasterr hhost
    refine ⟨_, (run_add hrun 1).trans (run_one hcheck), State.withHost_host .., ?_, h.wakes, ?_⟩
    · rw [State.withHost_results, State.deliver_results, h.results, h.payload]
    · simpa using h.clock
  | cons x xs ih =>
    obtain ⟨bytes', hx, hf'⟩ := hxs x (by simp)
    obtain ⟨u, hrun, hhost, hreplies, h⟩ := run_sampleRead (x := x)
      (more := (xs ++ [last]).flatMap Attempt.replies ++ more) hb hh ho hm (by simpa using hr) hx hf'
    let v := u.withHost (.waitSeconds d :: .sampleRead kind xs.length d :: rest)
    let w := (v.pass (d * 1000000)).withHost (.sampleRead kind xs.length d :: rest)
    have hcheck : step u = .next v := step_sampleCheck_more h.busy h.lasterr hhost
    have hwait : step v = .next w :=
      step_hostAct (a := .waitSeconds d) (rest := .sampleRead kind xs.length d :: rest) h.busy rfl (by simp) (by simp)
    obtain ⟨t, hrest, hhost', hresults, hwakes, hclock⟩ :=
      ih (fun y hy => hxs y (by simp [hy])) w h.busy h.opened h.memory rfl hreplies
    have hsteps : 4 * (x :: xs).length + 3 = 2 + (4 * xs.length + 3 + 1 + 1) := by rw [List.length_cons]; omega
    refine ⟨t, ?_, hhost', hresults.trans (congrArg (· ++ _) h.results), ?_, ?_⟩
    · rw [hsteps]
      exact (run_add hrun _).trans ((run_step hcheck _).trans ((run_step hwait _).trans hrest))
    · have hwakes : wakeWrites t.trace = wakeWrites u.trace + (xs.length + 1) := hwakes
      rw [hwakes, h.wakes, List.length_cons]
      omega
    · have hread := h.clock
      have hpassed : u.now + d * 1000000 ≤ w.now := Nat.le_add_right _ _
      rw [List.length_cons, Nat.add_mul, Nat.one_mul]
      omega

/-! ### The decoded form -/

/-- A check after a read with a fault drops the rest of the decoded form (R186). -/
theorem step_decodeCheck_fault {s : State} {kind : Window} {signed : Bool} {rest : List HostAction} (hb : s.busy = false)
    (hh : s.host = .decodeCheck kind signed :: rest) (herr : s.lasterr ≠ 0#8) :
    step s = .next ((s.deliver (.readFault s.lasterr)).withHost rest) := by
  rw [step_hostAct hb hh (by simp) (by simp)]
  simp [hostAct, decodeNext, herr]

/-- A check after a read without a fault lets the `DECODE` of the window and the reads of its outputs follow (R186). -/
theorem step_decodeCheck_ok {s : State} {kind : Window} {signed : Bool} {rest : List HostAction} (hb : s.busy = false)
    (hh : s.host = .decodeCheck kind signed :: rest) (herr : s.lasterr = 0#8) :
    step s = .next (s.withHost (.issue kind.decodeWord :: ((kind.outputs signed).map HostAction.read ++ rest))) := by
  rw [step_hostAct hb hh (by simp) (by simp)]
  simp [hostAct, decodeNext, herr]

/-- At rest the host reads one register after another, all from the same block. -/
theorem run_reads (is : List Nat) (s : State) (rest : List HostAction) (hb : s.busy = false)
    (hh : s.host = is.map HostAction.read ++ rest) :
    ∃ t : State, Host.Core.run core is.length s = .next t ∧ t.host = rest ∧ t.lasterr = s.lasterr
      ∧ t.results = s.results ++ is.map (fun i => .value i (portRead s i)) := by
  induction is generalizing s with
  | nil => exact ⟨s, rfl, hh, rfl, (List.append_nil _).symm⟩
  | cons i is ih =>
    let u := (s.deliver (.value i (portRead s i))).withHost (is.map HostAction.read ++ rest)
    obtain ⟨t, hrun, hhost, herr, hresults⟩ := ih u hb rfl
    exact ⟨t, (run_step (step_read hb hh) _).trans hrun, hhost, herr, hresults.trans (List.append_assoc ..)⟩

/-- The field of a verified payload is two bytes of its frame (R160). -/
theorem ReadMatched.field16_eq {s t : State} {b : Byte} {bytes : List Byte} (h : ReadMatched s t b bytes) {off : Byte}
    (hoff : off.toNat + 1 < b.toNat) :
    field16 t off = bytes.getD (off.toNat + 2) 0#8 ++ bytes.getD (off.toNat + 3) 0#8 := by
  rw [field16_verified h.pvalid (by rwa [h.count]), h.frame _ (by omega), h.frame _ (by omega)]

/-- The unsigned view of a temperature is the raw field (R162, R26). -/
theorem signMagnitude_widened (raw : Half) :
    (bit (raw.getLsbD 15) ++ raw.extractLsb' 0 15 : BitVec (1 + 15)).setWidth 32 = raw.setWidth 32 := by
  apply BitVec.eq_of_toNat_eq
  have hsplit := toNat_eq_sign_add_magnitude raw
  rw [decTempNeg_eq_getLsbD] at hsplit
  rw [toNat_widened (by decide), toNat_widened (by decide), signMagnitude_toNat, hsplit]
  cases raw.getLsbD 15 <;> rfl

/-- The value the host reads as the temperature: `x[7]`, the signed view, or `x[6]` (R186). -/
def temperatureResult (signed : Bool) (raw : Half) : HostResult :=
  if signed then .value 7 ((tempS (raw.getLsbD 15) (raw.extractLsb' 0 15)).setWidth 32) else .value 6 (raw.setWidth 32)

theorem read_humidity {s : State} {raw : Half} (hv : s.hvalid = true) (hhum : s.hum = raw) :
    HostResult.value 5 (portRead s 5) = .value 5 (raw.setWidth 32) := by
  simp [hv, hhum]

theorem read_temperature {s : State} {raw : Half} (hv : s.tvalid = true) (hneg : s.tneg = raw.getLsbD 15)
    (hmag : s.tmag = raw.extractLsb' 0 15) (signed : Bool) :
    HostResult.value (tempRegister signed) (portRead s (tempRegister signed)) = temperatureResult signed raw := by
  cases signed with
  | true => simp [tempRegister, temperatureResult, hv, hneg, hmag]
  | false =>
    have hview : portRead s 6 = raw.setWidth 32 := by
      rw [portRead_temp, hv, hneg, hmag]
      exact signMagnitude_widened raw
    simp [tempRegister, temperatureResult, hview]

/-- The values the decoded form of a window gives for a frame (R167, R186). -/
def Window.decodedResults (signed : Bool) (bytes : List Byte) : Window → List HostResult
  | .humOnly => [.value 5 ((bytes.getD 2 0#8 ++ bytes.getD 3 0#8 : Half).setWidth 32)]
  | .tempOnly => [temperatureResult signed (bytes.getD 2 0#8 ++ bytes.getD 3 0#8)]
  | .both => [.value 5 ((bytes.getD 2 0#8 ++ bytes.getD 3 0#8 : Half).setWidth 32),
      temperatureResult signed (bytes.getD 4 0#8 ++ bytes.getD 5 0#8)]

theorem outputs_length (kind : Window) (signed : Bool) (bytes : List Byte) :
    (kind.outputs signed).length = (kind.decodedResults signed bytes).length := by
  cases kind <;> rfl

/-- The `DECODE` of a window at rest, after a read of it that has matched: what the host then reads are the fields of the frame. -/
theorem step_decodeWord {s t : State} {kind : Window} {signed : Bool} {bytes : List Byte} {rest : List HostAction}
    (h : ReadMatched s t kind.range.2 bytes) (hh : t.host = .issue kind.decodeWord :: rest) :
    ∃ u, step t = .next u ∧ u.busy = false ∧ u.host = rest ∧ u.lasterr = 0#8 ∧ u.results = t.results
      ∧ (kind.outputs signed).map (fun i => HostResult.value i (portRead u i)) = kind.decodedResults signed bytes := by
  let taken := takeCommand rest t
  have hpv : taken.pvalid = true := h.pvalid
  have hfield (off : Byte) (hoff : off.toNat + 1 < kind.range.2.toNat) :
      field16 taken off = bytes.getD (off.toNat + 2) 0#8 ++ bytes.getD (off.toNat + 3) 0#8 := h.field16_eq hoff
  have hin (off : Byte) (hoff : off.toNat + 1 < kind.range.2.toNat) : off.toNat + 1 < taken.count.toNat := by
    rwa [show taken.count = kind.range.2 from h.count]
  cases kind with
  | humOnly =>
    have hstep := step_command h.busy hh (decode_encode (.decodeHum 0#8 0#8) rfl)
    rw [exec_decodeHum, decodeSample_success hpv (fun _ => hin 0#8 (by decide)) (by simp)] at hstep
    refine ⟨_, hstep, rfl, rfl, rfl, rfl, ?_⟩
    exact congrArg (fun hum => [hum]) (read_humidity rfl (hfield 0#8 (by decide)))
  | tempOnly =>
    have hstep := step_command h.busy hh (decode_encode (.decodeTemp 0#8 0#8) rfl)
    rw [exec_decodeTemp, decodeSample_success hpv (by simp) (fun _ => hin 0#8 (by decide))] at hstep
    refine ⟨_, hstep, rfl, rfl, rfl, rfl, ?_⟩
    have htemp := hfield 0#8 (by decide)
    exact congrArg (fun temp => [temp]) (read_temperature rfl (congrArg (·.getLsbD 15) htemp)
      (congrArg (·.extractLsb' 0 15) htemp) signed)
  | both =>
    have hstep := step_command h.busy hh (decode_encode (.decodeBoth 0#8 2#8) rfl)
    rw [exec_decodeBoth, decodeSample_success hpv (fun _ => hin 0#8 (by decide)) (fun _ => hin 2#8 (by decide))] at hstep
    refine ⟨_, hstep, rfl, rfl, rfl, rfl, ?_⟩
    have htemp := hfield 2#8 (by decide)
    exact congrArg₂ (fun hum temp => [hum, temp]) (read_humidity rfl (hfield 0#8 (by decide)))
      (read_temperature rfl (congrArg (·.getLsbD 15) htemp) (congrArg (·.extractLsb' 0 15) htemp) signed)

end Sys2Proof.Machine

namespace Sys2Proof.HostSeqProofs
open Sys2Proof.Machine

/-- Settles O53: the expansion, then the loop with one read less than `n` before its last. -/
theorem sampleReturnsTheLastRead : Obligations.SampleReturnsTheLastRead := by
  intro s kind n d rest xs last bytes more hinv hb ho hh hn hn' hd hd' hlen hxs hlast hf hr
  obtain rfl : xs.length + 1 = n := by rw [← hlen, List.length_append, List.length_singleton]
  have hexpand : (Pseudo.sample kind (xs.length + 1) d).expand = some [.sampleRead kind xs.length d] := by
    simp [Pseudo.expand, (sampleInRange_iff _ _).mpr ⟨hn, hn', hd, hd'⟩]
  obtain ⟨t, hrun, hhost, hresults, hwakes, hclock⟩ :=
    run_sample (rest := rest) hlast hf xs hxs (s.withHost (.sampleRead kind xs.length d :: rest)) hb ho hinv.memory rfl hr
  refine ⟨t, (run_step (step_pseudo hb hh hexpand) _).trans hrun, hhost, hresults, hwakes, ?_⟩
  rw [Nat.add_sub_cancel, Nat.mul_assoc]
  exact hclock

/-- Settles O57: the check alone, the read that is refused, and the read, the `DECODE` and the reads of its outputs. -/
theorem decodedFormIsGuarded : Obligations.DecodedFormIsGuarded := by
  refine ⟨fun s kind signed rest hb hh herr => ?guard, fun s kind signed rest hb hh ho => ?refused,
    fun s kind signed rest x bytes more hb ho hm hh hx hf hr => ?decoded⟩
  case guard =>
    rw [step_decodeCheck_fault hb hh herr]
    exact answers_next _
  case refused =>
    let u := s.withHost (.issue kind.word :: .decodeCheck kind signed :: rest)
    have hexpand : step s = .next u := step_pseudo hb hh rfl
    obtain ⟨v, hread, hvb, hvhost, hverr, hvresults, hdecoder⟩ := step_read_window_refused (s := u) hb rfl ho
    have hcheck := step_decodeCheck_fault hvb hvhost (by rw [hverr]; decide)
    refine ⟨_, (run_step hexpand 2).trans ((run_step hread 1).trans (run_one hcheck)), State.withHost_host .., ?_, hdecoder⟩
    rw [State.withHost_results, State.deliver_results, hverr, hvresults]
    rfl
  case decoded =>
    let u := s.withHost (.issue kind.word :: .decodeCheck kind signed :: rest)
    have hexpand : step s = .next u := step_pseudo hb hh rfl
    obtain ⟨v, hread, hvhost, -, hv⟩ := step_read_window (s := u) hb rfl rfl ho hm hr hx hf
    let w := v.withHost (.issue kind.decodeWord :: ((kind.outputs signed).map HostAction.read ++ rest))
    have hcheck : step v = .next w := step_decodeCheck_ok hv.busy hvhost hv.lasterr
    have hw : ReadMatched u w kind.range.2 bytes :=
      ⟨hv.busy, hv.opened, hv.lasterr, hv.pvalid, hv.count, hv.memory, hv.frame, hv.payload, hv.results, hv.wakes, hv.clock⟩
    obtain ⟨y, hdecode, hyb, hyhost, hyerr, hyresults, houtputs⟩ := step_decodeWord (signed := signed) hw rfl
    obtain ⟨t, hreads, hthost, hterr, htresults⟩ := run_reads (kind.outputs signed) y rest hyb hyhost
    have hall : ∃ t : State, Host.Core.run core (4 + (kind.decodedResults signed bytes).length) s = .next t
        ∧ t.host = rest ∧ t.lasterr = 0#8 ∧ t.results = s.results ++ kind.decodedResults signed bytes := by
      refine ⟨t, ?_, hthost, hterr.trans hyerr, ?_⟩
      · rw [← outputs_length, show 4 + (kind.outputs signed).length = (kind.outputs signed).length + 1 + 1 + 1 + 1 by omega]
        exact (run_step hexpand _).trans ((run_step hread _).trans ((run_step hcheck _).trans ((run_step hdecode _).trans hreads)))
      · rw [htresults, houtputs, hyresults, hw.results]
        rfl
    cases kind <;> exact hall

end Sys2Proof.HostSeqProofs
end
